-- ==== Sys2Proof/Word.lean ====
section
/-! DEFINITION. The machine's two word types (00_scope.md R6, R8): 8-bit bytes and 16-bit addresses,
unsigned, with arithmetic modulo 256 and modulo 65536 (R9). -/

namespace Sys2Proof

/-- An 8-bit value: a register, a memory cell, an opcode or an operand byte. -/
abbrev Byte := BitVec 8

/-- A 16-bit value: an address, pc, or an operand word (20_memory.md R50, R70). -/
abbrev Addr := BitVec 16

/-- `zext16`: widen a byte with a zero high byte (00_scope.md R9). -/
abbrev zext16 (b : Byte) : Addr := b.setWidth 16

end Sys2Proof
end

