-- ==== Sys2Proof/Syntax.lean ====
section
/-! DEFINITION. The instruction set as syntax: the mnemonics, the twelve formats of 30_encoding.md
R81, and one constructor of `Instr` for each of the 57 rows of R84 (spec/opcode_table.json). -/

namespace Sys2Proof

/-- The 23 mnemonics of 30_encoding.md R84; `nop` is the halt opcode 0xEA (R87, R90). -/
inductive Mnemonic where
  | lda | ldx | ldy | and | ora | lsr | pha | php | pla | plp | jmp | jsr
  | rts | tax | tay | txa | tya | tsx | txs | sec | sei | sed | nop
  deriving DecidableEq, Repr

/-- The twelve formats of 30_encoding.md R81. -/
inductive Format where
  | imp | acc | imm | zp | zpx | zpy | abs | absx | absy | indx | indy | ind
  deriving DecidableEq, Repr

/-- The length in bytes of an instruction of the format, opcode byte included (30_encoding.md R81, R82). -/
def Format.length : Format → Nat
  | .imp | .acc => 1
  | .imm | .zp | .zpx | .zpy | .indx | .indy => 2
  | .abs | .absx | .absy | .ind => 3

/-- The instructions: a mnemonic with its format and the format's operand (30_encoding.md R83, R84).
`imm8` and `zp8` are byte 1 as it stands; `addr16` is byte 2 : byte 1. -/
inductive Instr where
  /-- `LDA #$nn` (R141) -/
  | ldaImm (imm8 : Byte)
  /-- `LDA $zp` (R142) -/
  | ldaZp (zp8 : Byte)
  /-- `LDA $zp,X` (R143) -/
  | ldaZpx (zp8 : Byte)
  /-- `LDA $addr` (R144) -/
  | ldaAbs (addr16 : Addr)
  /-- `LDA $addr,X` (R145) -/
  | ldaAbsx (addr16 : Addr)
  /-- `LDA $addr,Y` (R146) -/
  | ldaAbsy (addr16 : Addr)
  /-- `LDA ($zp,X)` (R147) -/
  | ldaIndx (zp8 : Byte)
  /-- `LDA ($zp),Y` (R148) -/
  | ldaIndy (zp8 : Byte)
  /-- `LDX #$nn` (R149) -/
  | ldxImm (imm8 : Byte)
  /-- `LDX $zp` (R150) -/
  | ldxZp (zp8 : Byte)
  /-- `LDX $zp,Y` (R151) -/
  | ldxZpy (zp8 : Byte)
  /-- `LDX $addr` (R152) -/
  | ldxAbs (addr16 : Addr)
  /-- `LDX $addr,Y` (R153) -/
  | ldxAbsy (addr16 : Addr)
  /-- `LDY #$nn` (R154) -/
  | ldyImm (imm8 : Byte)
  /-- `LDY $zp` (R155) -/
  | ldyZp (zp8 : Byte)
  /-- `LDY $zp,X` (R156) -/
  | ldyZpx (zp8 : Byte)
  /-- `LDY $addr` (R157) -/
  | ldyAbs (addr16 : Addr)
  /-- `LDY $addr,X` (R158) -/
  | ldyAbsx (addr16 : Addr)
  /-- `AND #$nn` (R171) -/
  | andImm (imm8 : Byte)
  /-- `AND $zp` (R172) -/
  | andZp (zp8 : Byte)
  /-- `AND $zp,X` (R173) -/
  | andZpx (zp8 : Byte)
  /-- `AND $addr` (R174) -/
  | andAbs (addr16 : Addr)
  /-- `AND $addr,X` (R175) -/
  | andAbsx (addr16 : Addr)
  /-- `AND $addr,Y` (R176) -/
  | andAbsy (addr16 : Addr)
  /-- `AND ($zp,X)` (R177) -/
  | andIndx (zp8 : Byte)
  /-- `AND ($zp),Y` (R178) -/
  | andIndy (zp8 : Byte)
  /-- `ORA #$nn` (R179) -/
  | oraImm (imm8 : Byte)
  /-- `ORA $zp` (R180) -/
  | oraZp (zp8 : Byte)
  /-- `ORA $zp,X` (R181) -/
  | oraZpx (zp8 : Byte)
  /-- `ORA $addr` (R182) -/
  | oraAbs (addr16 : Addr)
  /-- `ORA $addr,X` (R183) -/
  | oraAbsx (addr16 : Addr)
  /-- `ORA $addr,Y` (R184) -/
  | oraAbsy (addr16 : Addr)
  /-- `ORA ($zp,X)` (R185) -/
  | oraIndx (zp8 : Byte)
  /-- `ORA ($zp),Y` (R186) -/
  | oraIndy (zp8 : Byte)
  /-- `LSR A` (R201) -/
  | lsrAcc
  /-- `LSR $zp` (R202) -/
  | lsrZp (zp8 : Byte)
  /-- `LSR $zp,X` (R203) -/
  | lsrZpx (zp8 : Byte)
  /-- `LSR $addr` (R204) -/
  | lsrAbs (addr16 : Addr)
  /-- `LSR $addr,X` (R205) -/
  | lsrAbsx (addr16 : Addr)
  /-- `PHA` (R211) -/
  | pha
  /-- `PHP` (R212) -/
  | php
  /-- `PLA` (R213) -/
  | pla
  /-- `PLP` (R214) -/
  | plp
  /-- `JMP $addr` (R220) -/
  | jmpAbs (addr16 : Addr)
  /-- `JMP ($addr)` (R221) -/
  | jmpInd (addr16 : Addr)
  /-- `JSR $addr` (R222) -/
  | jsr (addr16 : Addr)
  /-- `RTS` (R223) -/
  | rts
  /-- `TAX` (R230) -/
  | tax
  /-- `TAY` (R231) -/
  | tay
  /-- `TXA` (R232) -/
  | txa
  /-- `TYA` (R233) -/
  | tya
  /-- `TSX` (R234) -/
  | tsx
  /-- `TXS` (R235) -/
  | txs
  /-- `SEC` (R240) -/
  | sec
  /-- `SEI` (R241) -/
  | sei
  /-- `SED` (R242) -/
  | sed
  /-- `NOP` (R243) -/
  | nop
  deriving DecidableEq, Repr

/-- The mnemonic of an instruction (30_encoding.md R84). -/
def Instr.mnemonic : Instr → Mnemonic
  | .ldaImm _ | .ldaZp _ | .ldaZpx _ | .ldaAbs _ | .ldaAbsx _ | .ldaAbsy _ | .ldaIndx _ | .ldaIndy _ => .lda
  | .ldxImm _ | .ldxZp _ | .ldxZpy _ | .ldxAbs _ | .ldxAbsy _ => .ldx
  | .ldyImm _ | .ldyZp _ | .ldyZpx _ | .ldyAbs _ | .ldyAbsx _ => .ldy
  | .andImm _ | .andZp _ | .andZpx _ | .andAbs _ | .andAbsx _ | .andAbsy _ | .andIndx _ | .andIndy _ => .and
  | .oraImm _ | .oraZp _ | .oraZpx _ | .oraAbs _ | .oraAbsx _ | .oraAbsy _ | .oraIndx _ | .oraIndy _ => .ora
  | .lsrAcc | .lsrZp _ | .lsrZpx _ | .lsrAbs _ | .lsrAbsx _ => .lsr
  | .pha => .pha
  | .php => .php
  | .pla => .pla
  | .plp => .plp
  | .jmpAbs _ | .jmpInd _ => .jmp
  | .jsr _ => .jsr
  | .rts => .rts
  | .tax => .tax
  | .tay => .tay
  | .txa => .txa
  | .tya => .tya
  | .tsx => .tsx
  | .txs => .txs
  | .sec => .sec
  | .sei => .sei
  | .sed => .sed
  | .nop => .nop

/-- The format of an instruction (30_encoding.md R84). -/
def Instr.format : Instr → Format
  | .pha | .php | .pla | .plp | .rts | .tax | .tay | .txa
  | .tya | .tsx | .txs | .sec | .sei | .sed | .nop => .imp
  | .lsrAcc => .acc
  | .ldaImm _ | .ldxImm _ | .ldyImm _ | .andImm _ | .oraImm _ => .imm
  | .ldaZp _ | .ldxZp _ | .ldyZp _ | .andZp _ | .oraZp _ | .lsrZp _ => .zp
  | .ldaZpx _ | .ldyZpx _ | .andZpx _ | .oraZpx _ | .lsrZpx _ => .zpx
  | .ldxZpy _ => .zpy
  | .ldaAbs _ | .ldxAbs _ | .ldyAbs _ | .andAbs _ | .oraAbs _ | .lsrAbs _ | .jmpAbs _ | .jsr _ => .abs
  | .ldaAbsx _ | .ldyAbsx _ | .andAbsx _ | .oraAbsx _ | .lsrAbsx _ => .absx
  | .ldaAbsy _ | .ldxAbsy _ | .andAbsy _ | .oraAbsy _ => .absy
  | .ldaIndx _ | .andIndx _ | .oraIndx _ => .indx
  | .ldaIndy _ | .andIndy _ | .oraIndy _ => .indy
  | .jmpInd _ => .ind

/-- The length of an instruction in bytes (30_encoding.md R82). -/
def Instr.length (i : Instr) : Nat := i.format.length

end Sys2Proof
end

