-- ==== Sys2Proof/Decode.lean ====
section
/-! DEFINITION. The decoder, total on any bytes and rejecting by name, and the encoder
(30_encoding.md R80 to R92), with the byte-order helpers both use. -/

namespace Sys2Proof

/-- `hi : lo`, the byte `hi` above the byte `lo` (00_scope.md R8). -/
def joinBytes (hi lo : Byte) : Addr := hi ++ lo

/-- Bits 7 to 0 of a word, the byte that stands at the lower address (20_memory.md R57). -/
def lowByte (w : Addr) : Byte := w.extractLsb' 0 8

/-- Bits 15 to 8 of a word. -/
def highByte (w : Addr) : Byte := w.extractLsb' 8 8

/-- What the dispatch table holds for an opcode: how many operand bytes the handler fetches and the
instruction they make (30_encoding.md R80, R82, R83). -/
inductive OpcodeEntry where
  /-- formats `imp` and `acc`: no operand byte -/
  | implied (i : Instr)
  /-- formats `imm`, `zp`, `zpx`, `zpy`, `indx`, `indy`: byte 1 as it stands -/
  | byteOperand (make : Byte → Instr)
  /-- formats `abs`, `absx`, `absy`, `ind`: byte 2 : byte 1 -/
  | wordOperand (make : Addr → Instr)

/-- The number of operand bytes an entry calls for (30_encoding.md R81). -/
def OpcodeEntry.operandCount : OpcodeEntry → Nat
  | .implied _ => 0
  | .byteOperand _ => 1
  | .wordOperand _ => 2

/-- Why bytes are not an instruction. -/
inductive DecodeError where
  /-- there is no byte to decode -/
  | noBytes
  /-- the first byte is one of the 199 illegal opcodes (30_encoding.md R86) -/
  | illegalOpcode (opcode : Byte)
  /-- the opcode is legal and its operand bytes are not all there -/
  | truncated (opcode : Byte)
  deriving DecidableEq, Repr

/-- The decoder's answer: an instruction and the bytes after it, or a rejection by name. -/
inductive Decoded where
  | instr (i : Instr) (rest : List Byte)
  | rejected (why : DecodeError)
  deriving DecidableEq, Repr

/-- The opcode map of 30_encoding.md R84, in opcode order. Every byte not listed is an illegal opcode
(R86). The selection is by the opcode byte alone (R80, 40_fetch_dispatch.md R103). The byte values are
the ones the spec lists; it marks them as general knowledge (assumption 7). -/
def opcodeEntry (op : Byte) : Option OpcodeEntry :=
  match op with
  | 0x01#8 => some (.byteOperand .oraIndx)
  | 0x05#8 => some (.byteOperand .oraZp)
  | 0x08#8 => some (.implied .php)
  | 0x09#8 => some (.byteOperand .oraImm)
  | 0x0D#8 => some (.wordOperand .oraAbs)
  | 0x11#8 => some (.byteOperand .oraIndy)
  | 0x15#8 => some (.byteOperand .oraZpx)
  | 0x19#8 => some (.wordOperand .oraAbsy)
  | 0x1D#8 => some (.wordOperand .oraAbsx)
  | 0x20#8 => some (.wordOperand .jsr)
  | 0x21#8 => some (.byteOperand .andIndx)
  | 0x25#8 => some (.byteOperand .andZp)
  | 0x28#8 => some (.implied .plp)
  | 0x29#8 => some (.byteOperand .andImm)
  | 0x2D#8 => some (.wordOperand .andAbs)
  | 0x31#8 => some (.byteOperand .andIndy)
  | 0x35#8 => some (.byteOperand .andZpx)
  | 0x38#8 => some (.implied .sec)
  | 0x39#8 => some (.wordOperand .andAbsy)
  | 0x3D#8 => some (.wordOperand .andAbsx)
  | 0x46#8 => some (.byteOperand .lsrZp)
  | 0x48#8 => some (.implied .pha)
  | 0x4A#8 => some (.implied .lsrAcc)
  | 0x4C#8 => some (.wordOperand .jmpAbs)
  | 0x4E#8 => some (.wordOperand .lsrAbs)
  | 0x56#8 => some (.byteOperand .lsrZpx)
  | 0x5E#8 => some (.wordOperand .lsrAbsx)
  | 0x60#8 => some (.implied .rts)
  | 0x68#8 => some (.implied .pla)
  | 0x6C#8 => some (.wordOperand .jmpInd)
  | 0x78#8 => some (.implied .sei)
  | 0x8A#8 => some (.implied .txa)
  | 0x98#8 => some (.implied .tya)
  | 0x9A#8 => some (.implied .txs)
  | 0xA0#8 => some (.byteOperand .ldyImm)
  | 0xA1#8 => some (.byteOperand .ldaIndx)
  | 0xA2#8 => some (.byteOperand .ldxImm)
  | 0xA4#8 => some (.byteOperand .ldyZp)
  | 0xA5#8 => some (.byteOperand .ldaZp)
  | 0xA6#8 => some (.byteOperand .ldxZp)
  | 0xA8#8 => some (.implied .tay)
  | 0xA9#8 => some (.byteOperand .ldaImm)
  | 0xAA#8 => some (.implied .tax)
  | 0xAC#8 => some (.wordOperand .ldyAbs)
  | 0xAD#8 => some (.wordOperand .ldaAbs)
  | 0xAE#8 => some (.wordOperand .ldxAbs)
  | 0xB1#8 => some (.byteOperand .ldaIndy)
  | 0xB4#8 => some (.byteOperand .ldyZpx)
  | 0xB5#8 => some (.byteOperand .ldaZpx)
  | 0xB6#8 => some (.byteOperand .ldxZpy)
  | 0xB9#8 => some (.wordOperand .ldaAbsy)
  | 0xBA#8 => some (.implied .tsx)
  | 0xBC#8 => some (.wordOperand .ldyAbsx)
  | 0xBD#8 => some (.wordOperand .ldaAbsx)
  | 0xBE#8 => some (.wordOperand .ldxAbsy)
  | 0xEA#8 => some (.implied .nop)
  | 0xF8#8 => some (.implied .sed)
  | _ => none

/-- Decode the instruction at the front of a list of bytes (30_encoding.md R80 to R84, R86, R92). -/
def decode : List Byte → Decoded
  | [] => .rejected .noBytes
  | op :: rest =>
    match opcodeEntry op with
    | none => .rejected (.illegalOpcode op)
    | some (.implied i) => .instr i rest
    | some (.byteOperand make) =>
      match rest with
      | b :: rest => .instr (make b) rest
      | [] => .rejected (.truncated op)
    | some (.wordOperand make) =>
      match rest with
      | lo :: hi :: rest => .instr (make (joinBytes hi lo)) rest
      | _ => .rejected (.truncated op)

/-- The opcode byte of an instruction (30_encoding.md R84). -/
def opcodeOf : Instr → Byte
  | .ldaImm _ => 0xA9#8
  | .ldaZp _ => 0xA5#8
  | .ldaZpx _ => 0xB5#8
  | .ldaAbs _ => 0xAD#8
  | .ldaAbsx _ => 0xBD#8
  | .ldaAbsy _ => 0xB9#8
  | .ldaIndx _ => 0xA1#8
  | .ldaIndy _ => 0xB1#8
  | .ldxImm _ => 0xA2#8
  | .ldxZp _ => 0xA6#8
  | .ldxZpy _ => 0xB6#8
  | .ldxAbs _ => 0xAE#8
  | .ldxAbsy _ => 0xBE#8
  | .ldyImm _ => 0xA0#8
  | .ldyZp _ => 0xA4#8
  | .ldyZpx _ => 0xB4#8
  | .ldyAbs _ => 0xAC#8
  | .ldyAbsx _ => 0xBC#8
  | .andImm _ => 0x29#8
  | .andZp _ => 0x25#8
  | .andZpx _ => 0x35#8
  | .andAbs _ => 0x2D#8
  | .andAbsx _ => 0x3D#8
  | .andAbsy _ => 0x39#8
  | .andIndx _ => 0x21#8
  | .andIndy _ => 0x31#8
  | .oraImm _ => 0x09#8
  | .oraZp _ => 0x05#8
  | .oraZpx _ => 0x15#8
  | .oraAbs _ => 0x0D#8
  | .oraAbsx _ => 0x1D#8
  | .oraAbsy _ => 0x19#8
  | .oraIndx _ => 0x01#8
  | .oraIndy _ => 0x11#8
  | .lsrAcc => 0x4A#8
  | .lsrZp _ => 0x46#8
  | .lsrZpx _ => 0x56#8
  | .lsrAbs _ => 0x4E#8
  | .lsrAbsx _ => 0x5E#8
  | .pha => 0x48#8
  | .php => 0x08#8
  | .pla => 0x68#8
  | .plp => 0x28#8
  | .jmpAbs _ => 0x4C#8
  | .jmpInd _ => 0x6C#8
  | .jsr _ => 0x20#8
  | .rts => 0x60#8
  | .tax => 0xAA#8
  | .tay => 0xA8#8
  | .txa => 0x8A#8
  | .tya => 0x98#8
  | .tsx => 0xBA#8
  | .txs => 0x9A#8
  | .sec => 0x38#8
  | .sei => 0x78#8
  | .sed => 0xF8#8
  | .nop => 0xEA#8

/-- The operand bytes of an instruction in increasing address order: byte 1 alone, or the low byte
and then the high byte of `addr16` (30_encoding.md R81, R83). -/
def operandBytes : Instr → List Byte
  | .lsrAcc | .pha | .php | .pla | .plp | .rts
  | .tax | .tay | .txa | .tya | .tsx | .txs
  | .sec | .sei | .sed | .nop => []
  | .ldaImm imm8 | .ldxImm imm8 | .ldyImm imm8 | .andImm imm8 | .oraImm imm8 => [imm8]
  | .ldaZp zp8 | .ldaZpx zp8 | .ldaIndx zp8 | .ldaIndy zp8 | .ldxZp zp8 | .ldxZpy zp8
  | .ldyZp zp8 | .ldyZpx zp8 | .andZp zp8 | .andZpx zp8 | .andIndx zp8 | .andIndy zp8
  | .oraZp zp8 | .oraZpx zp8 | .oraIndx zp8 | .oraIndy zp8 | .lsrZp zp8 | .lsrZpx zp8 => [zp8]
  | .ldaAbs addr16 | .ldaAbsx addr16 | .ldaAbsy addr16 | .ldxAbs addr16 | .ldxAbsy addr16 | .ldyAbs addr16
  | .ldyAbsx addr16 | .andAbs addr16 | .andAbsx addr16 | .andAbsy addr16 | .oraAbs addr16 | .oraAbsx addr16
  | .oraAbsy addr16 | .lsrAbs addr16 | .lsrAbsx addr16 | .jmpAbs addr16 | .jmpInd addr16 | .jsr addr16 => [lowByte addr16, highByte addr16]

/-- The bytes of an instruction at increasing addresses (30_encoding.md R80). -/
def encode (i : Instr) : List Byte := opcodeOf i :: operandBytes i

/-- The three bytes of an instruction given as one number: bit 0 is the least significant bit of the
first byte, the second byte is bits 15 to 8, and every bit from `nbits` up is 0. -/
def tableBytes (nbits w : Nat) : List Byte :=
  let v := w % 2 ^ nbits
  [BitVec.ofNat 8 v, BitVec.ofNat 8 (v / 256), BitVec.ofNat 8 (v / 65536)]

/-- The instruction the decoder reads from a row of the opcode table given as a number. -/
def decodeTableWord (nbits w : Nat) : Option Instr :=
  match decode (tableBytes nbits w) with
  | .instr i _ => some i
  | .rejected _ => none

end Sys2Proof
end

