-- ==== Sys2Proof/Config.lean ====
section
/-! DEFINITION. The constants the hardware fixes (00_scope.md R6). The spec leaves no value open, so
there is no free value here. -/

namespace Sys2Proof.Config

/-- The reset vector's address, and the pc after a reset without an entry address (20_memory.md R61,
70_reset_and_hazards.md R281). -/
abbrev resetVector : Addr := 0xFFFC#16

/-- The highest address; a FetchByte there faults (40_fetch_dispatch.md R100). -/
abbrev topAddress : Addr := 0xFFFF#16

/-- The page number of the stack page (10_state.md R25). -/
abbrev stackPage : Byte := 0x01#8

/-- What every byte of memory holds after power-on, and so what an address that the memory list does
not name reads as (10_state.md R39, 70_reset_and_hazards.md R280). -/
abbrev powerOnByte : Byte := 0x00#8

end Sys2Proof.Config
end

