-- ==== Sys2Proof/Machine/State.lean ====
section
/-! DEFINITION. The whole state of one machine as plain data (10_state.md R20: "Nothing else is
state"), its value after power-on and after reset, and the reasons a step can stop. -/

namespace Sys2Proof.Machine

/-- The run mode (10_state.md R37). -/
inductive Mode where
  /-- the next step will fetch and execute an instruction -/
  | running
  /-- the halt opcode was executed, or the machine was powered on and never reset -/
  | halted
  /-- a fatal fault was raised -/
  | faulted
  deriving DecidableEq, Repr

/-- The record of the fatal fault that ended a run (10_state.md R38, 60_exceptions.md R250 to R252). -/
inductive FaultRecord where
  /-- code 1: FetchByte was called with pc = 0xFFFF; `addr` is always 0xFFFF (R251) -/
  | pcOverrun (addr : Addr)
  /-- code 2: `opcode`, fetched from `addr`, is no opcode with a meaning (R252) -/
  | unknownOpcode (opcode : Byte) (addr : Addr)
  deriving DecidableEq, Repr

/-- Memory as the cells that differ from the power-on byte, at strictly rising addresses
(`Memory.wf` in Machine/Ops.lean); an address not listed reads as `Config.powerOnByte`. -/
abbrev Memory := List Host.Cell

/-- The state of the machine, under the spec's own names (10_state.md R20 to R39). -/
structure State where
  /-- the accumulator (R21) -/
  A : Byte
  /-- the first index register (R22) -/
  X : Byte
  /-- the second index register (R23) -/
  Y : Byte
  /-- the program counter (R24) -/
  pc : Addr
  /-- the stack pointer, an offset in page 0x01 (R25) -/
  S : Byte
  /-- the status byte, bits N V - B D I Z C from 7 down to 0 (R26); all eight are stored (R29) -/
  P : Byte
  /-- the run mode (R37) -/
  mode : Mode
  /-- the fault record, none while mode is not Faulted (R38) -/
  fault : Option FaultRecord
  /-- the 65536 bytes of memory (R39) -/
  mem : Memory
  deriving DecidableEq, Repr

/-- Why `step` answers no next state. The spec's own two faults are not here: the machine takes them,
as a next state in mode Faulted (60_exceptions.md R255; assumption 1). -/
inductive Fault where
  /-- Raised by `step` in mode Halted: "no step is enabled" (10_state.md R37). The host's run
  operation is what leaves this mode (Machine/HostOps.lean). Safe: the spec gives no step here. -/
  | stepWhileHalted
  /-- Raised by `step` in mode Faulted: "no step is enabled, ever" (10_state.md R37, 60_exceptions.md
  R255). Safe: the spec gives no step here. -/
  | stepWhileFaulted
  deriving DecidableEq, Repr

/-- Why `exec` refuses an instruction. -/
inductive Refusal where
  /-- Raised by an arm of `exec` that has no meaning yet; no arm raises it in this model. Safe. -/
  | notModelled (mnemonic : String)
  deriving DecidableEq, Repr

/-- The machine just powered on and never reset (70_reset_and_hazards.md R280). -/
def State.powerOn : State where
  A := 0x00#8
  X := 0x00#8
  Y := 0x00#8
  pc := 0x0000#16
  S := 0x00#8
  P := 0x00#8
  mode := .halted
  fault := none
  mem := []

/-- The machine powered on and reset without an entry address (70_reset_and_hazards.md R281, 10_state.md
R41). -/
def State.reset : State where
  A := 0x00#8
  X := 0x00#8
  Y := 0x00#8
  pc := Config.resetVector
  S := 0x00#8
  P := 0x00#8
  mode := .running
  fault := none
  mem := []

end Sys2Proof.Machine
end

