-- ==== Sys2Proof/Machine/Flags.lean ====
section
/-! DEFINITION. The status byte's named flags and every flag computation of the spec (10_state.md R26
to R36, 44_shift.md R200). -/

namespace Sys2Proof.Machine

/-- The seven named flags of the status byte (10_state.md R26). -/
inductive Flag where
  | N | V | B | D | I | Z | C
  deriving DecidableEq, Repr

/-- The bit position of a flag in the status byte (10_state.md R26, the spec's decision D2; assumption 9).
Bit 5 has no name. -/
def Flag.bit : Flag → Nat
  | .N => 7 | .V => 6 | .B => 4 | .D => 3 | .I => 2 | .Z => 1 | .C => 0

/-- Write one bit of a byte and leave the other seven (10_state.md R36). -/
def setBit (p : Byte) (n : Nat) (b : Bool) : Byte :=
  if b then p ||| (1#8 <<< n) else p &&& ~~~(1#8 <<< n)

/-- Read one flag of a status byte. -/
def getFlag (f : Flag) (p : Byte) : Bool := p.getLsbD f.bit

/-- Write one flag of a status byte and no other bit (10_state.md R36). -/
def setFlag (f : Flag) (b : Bool) (p : Byte) : Byte := setBit p f.bit b

/-- `SetZN(v)`: Z tells whether v is 0 and N is bit 7 of v (10_state.md R35). -/
def setZN (v p : Byte) : Byte := setFlag .N (v.getLsbD 7) (setFlag .Z (v == 0x00#8) p)

/-- The result of a logical shift right by one place (44_shift.md R200). -/
def shrResult (v : Byte) : Byte := v >>> 1

/-- The flags of a logical shift right of v: C is the bit shifted out, N is 0, Z tells whether the
result is 0 (44_shift.md R200). -/
def shrFlags (v p : Byte) : Byte :=
  setFlag .Z (shrResult v == 0x00#8) (setFlag .N false (setFlag .C (v.getLsbD 0) p))

end Sys2Proof.Machine
end

