-- ==== Sys2Proof/Machine/Ops.lean ====
section
/-! DEFINITION. The named operations over memory, registers, flags and the stack, the two fetches,
and the taking of a fault (20_memory.md R51 to R54, 45_stack.md R210, 40_fetch_dispatch.md R100 and
R101, 60_exceptions.md R251 to R255). -/

namespace Sys2Proof.Machine

/-! ## The memory list -/

/-- The byte at an address; an address that is not listed holds the power-on byte. -/
def Memory.lookup : Memory → Nat → Byte
  | [], _ => Config.powerOnByte
  | (a, b) :: m, k => if a = k then b else Memory.lookup m k

/-- Drop the cells at an address. -/
def Memory.erase : Memory → Nat → Memory
  | [], _ => []
  | (a, b) :: m, k => if a = k then Memory.erase m k else (a, b) :: Memory.erase m k

/-- Put a cell before the first cell of a higher address. -/
def Memory.insert : Memory → Nat → Byte → Memory
  | [], k, v => [(k, v)]
  | (a, b) :: m, k, v => if k < a then (k, v) :: (a, b) :: m else (a, b) :: Memory.insert m k v

/-- Store a byte at an address: a power-on byte is stored by listing nothing there. -/
def Memory.store (m : Memory) (k : Nat) (v : Byte) : Memory :=
  if v = Config.powerOnByte then m.erase k else (m.erase k).insert k v

/-- The cells lie at strictly rising addresses from `lo` up, below 65536, and none holds the power-on
byte. -/
def Memory.risingFrom : Nat → Memory → Bool
  | _, [] => true
  | lo, (a, b) :: m =>
    decide (lo ≤ a) && decide (a < 65536) && decide (b ≠ Config.powerOnByte) && Memory.risingFrom (a + 1) m

/-- The canonical form of a memory: two memories in it that read alike are equal. -/
def Memory.wf (m : Memory) : Bool := Memory.risingFrom 0 m

/-! ## Byte and word access -/

/-- `MemRead(addr, 1)` (20_memory.md R51). -/
def State.readByte (s : State) (a : Addr) : Byte := s.mem.lookup a.toNat

/-- `MemWrite(addr, 1, v)` (20_memory.md R52). -/
def State.writeByte (s : State) (a : Addr) (v : Byte) : State :=
  { s with mem := s.mem.store a.toNat v }

/-- `MemRead(addr, 2)`: the low byte at `a`, the high byte at `a` +16 1 (20_memory.md R53, R56). -/
def State.readWord (s : State) (a : Addr) : Addr := joinBytes (s.readByte (a + 1)) (s.readByte a)

/-- `MemWrite(addr, 2, v)`: the low byte first (20_memory.md R54, R56). -/
def State.writeWord (s : State) (a v : Addr) : State :=
  (s.writeByte a (lowByte v)).writeByte (a + 1) (highByte v)

/-! ## Registers and flags -/

/-- The three general registers (10_state.md R21 to R23). -/
inductive Reg where
  | A | X | Y
  deriving DecidableEq, Repr

/-- Read a general register. -/
def State.reg (s : State) : Reg → Byte
  | .A => s.A
  | .X => s.X
  | .Y => s.Y

/-- Write a general register. -/
def State.setReg (s : State) (r : Reg) (v : Byte) : State :=
  match r with
  | .A => { s with A := v }
  | .X => { s with X := v }
  | .Y => { s with Y := v }

/-- Write the whole status byte. -/
def State.setP (s : State) (p : Byte) : State := { s with P := p }

/-- Write one flag. -/
def State.setFlag (s : State) (f : Flag) (b : Bool) : State := s.setP (Machine.setFlag f b s.P)

/-- `Load(reg, v)`: write v to the register and recompute Z and N from v (42_load.md R140). Loads,
logical instructions, PLA and the transfers into A, X or Y all end in it (10_state.md R35). -/
def State.load (s : State) (r : Reg) (v : Byte) : State := (s.setReg r v).setP (setZN v s.P)

/-! ## The stack -/

/-- The stack cell `0x01 : S` (10_state.md R25). -/
def stackCell (sp : Byte) : Addr := joinBytes Config.stackPage sp

/-- `Push(v)`: write at `0x01 : S`, then decrement S modulo 256 (45_stack.md R210). -/
def State.push (s : State) (v : Byte) : State :=
  { s.writeByte (stackCell s.S) v with S := s.S - 1 }

/-- The state after `Pull()`: S incremented modulo 256 (45_stack.md R210). -/
def State.pulled (s : State) : State := { s with S := s.S + 1 }

/-- The byte `Pull()` returns: the one at `0x01 : S` for the incremented S (45_stack.md R210). -/
def State.pullByte (s : State) : Byte := s.readByte (stackCell (s.S + 1))

/-! ## Taking a fault -/

/-- `raise`: mode becomes Faulted and the record is written; nothing else changes, pc included
(60_exceptions.md R251 to R253, R255). There is no vector, no saved state and no way back: the
hardware has no return from a fault (R255). -/
def State.raise (s : State) (r : FaultRecord) : State := { s with mode := .faulted, fault := some r }

/-! ## Fetching -/

/-- The result of a fetch: a value and the state with pc advanced, or the state after a fault. -/
inductive Fetched (α : Type) where
  | got (v : α) (s : State)
  | raised (s : State)

/-- `FetchByte()` (40_fetch_dispatch.md R100). -/
def State.fetchByte (s : State) : Fetched Byte :=
  if s.pc = Config.topAddress then .raised (s.raise (.pcOverrun Config.topAddress))
  else .got (s.readByte s.pc) { s with pc := s.pc + 1 }

/-- `FetchWord()`: two FetchByte, the low byte first (40_fetch_dispatch.md R101). -/
def State.fetchWord (s : State) : Fetched Addr :=
  match s.fetchByte with
  | .raised t => .raised t
  | .got lo t =>
    match t.fetchByte with
    | .raised u => .raised u
    | .got hi u => .got (joinBytes hi lo) u

/-- Fetch a whole instruction at pc: the opcode byte, then the operand bytes its table entry calls
for. An opcode outside the table raises UnknownOpcode with the address it was fetched from
(40_fetch_dispatch.md R102, 60_exceptions.md R252, R254). -/
def State.fetchInstr (s : State) : Fetched Instr :=
  match s.fetchByte with
  | .raised t => .raised t
  | .got op t =>
    match opcodeEntry op with
    | none => .raised (t.raise (.unknownOpcode op s.pc))
    | some (.implied i) => .got i t
    | some (.byteOperand make) =>
      match t.fetchByte with
      | .raised u => .raised u
      | .got b u => .got (make b) u
    | some (.wordOperand make) =>
      match t.fetchWord with
      | .raised u => .raised u
      | .got w u => .got (make w) u

/-- Whether a step is enabled: only in mode Running (10_state.md R37, 40_fetch_dispatch.md R102). In the
other modes, the fault that says why it is not. -/
def State.stepDisabled (s : State) : Option Fault :=
  match s.mode with
  | .running => none
  | .halted => some .stepWhileHalted
  | .faulted => some .stepWhileFaulted

/-- Store bytes at consecutive addresses from `a` up, each address modulo 65536. -/
def State.writeBytes (s : State) (a : Addr) : List Byte → State
  | [] => s
  | b :: bs => (s.writeByte a b).writeBytes (a + 1) bs

/-- The `n` bytes at consecutive addresses from `a` up, each address modulo 65536. -/
def State.readBytes (s : State) (a : Addr) : Nat → List Byte
  | 0 => []
  | n + 1 => s.readByte a :: s.readBytes (a + 1) n

end Sys2Proof.Machine
end

