-- ==== Sys2Proof/Machine/Operands.lean ====
section
/-! DEFINITION. The address-mode resolver: the effective address of every operand form, from the operand
that was fetched and the state (41_addressing_modes.md R120 to R133). The immediate form's operand is
the fetched byte itself (R130), the implied form has none (R120), and the accumulator form's is A (R131). -/

namespace Sys2Proof.Machine

/-- Zero page (R121). -/
def eaZp (zp8 : Byte) : Addr := zext16 zp8

/-- Zero page, X-indexed, not reduced modulo 256 (R122, the spec's decision D5; assumption 10). -/
def eaZpx (zp8 : Byte) (s : State) : Addr := zext16 zp8 + zext16 s.X

/-- Zero page, Y-indexed, not reduced modulo 256 (R123, the spec's decision D5; assumption 10). -/
def eaZpy (zp8 : Byte) (s : State) : Addr := zext16 zp8 + zext16 s.Y

/-- Absolute (R124). -/
def eaAbs (addr16 : Addr) : Addr := addr16

/-- Absolute, X-indexed, modulo 65536 (R125). -/
def eaAbsx (addr16 : Addr) (s : State) : Addr := addr16 + zext16 s.X

/-- Absolute, Y-indexed, modulo 65536 (R126). -/
def eaAbsy (addr16 : Addr) (s : State) : Addr := addr16 + zext16 s.Y

/-- X-indexed zero-page indirect: the word at zp8 + X, neither the sum nor the step to the high byte
reduced modulo 256 (R127, the spec's decision D5; assumption 10). -/
def eaIndx (zp8 : Byte) (s : State) : Addr := s.readWord (zext16 zp8 + zext16 s.X)

/-- Zero-page indirect, Y-indexed: the word at zp8, plus Y modulo 65536 (R128, the spec's decision D5;
assumption 10). -/
def eaIndy (zp8 : Byte) (s : State) : Addr := s.readWord (zext16 zp8) + zext16 s.Y

/-- The address of the high byte of an indirect jump's pointer: the same page as the low byte's, always
(R129). -/
def pointerHighAddr (ptr : Addr) : Addr := joinBytes (highByte ptr) (lowByte ptr + 1)

/-- Indirect absolute, the target of `JMP ($addr)`, with the page-wrap bug (R129). -/
def targetInd (ptr : Addr) (s : State) : Addr :=
  joinBytes (s.readByte (pointerHighAddr ptr)) (s.readByte ptr)

end Sys2Proof.Machine
end

