-- ==== Sys2Proof/Machine/Control.lean ====
section
/-! DEFINITION. The control transfers JMP, JSR and RTS (46_control_flow.md). -/

namespace Sys2Proof.Machine

/-- `JMP $addr` (R220). -/
def execJmpAbs (addr16 : Addr) (s : State) : Host.Outcome State Fault Refusal :=
  .next { s with pc := eaAbs addr16 }

/-- `JMP ($addr)` (R221). -/
def execJmpInd (addr16 : Addr) (s : State) : Host.Outcome State Fault Refusal :=
  .next { s with pc := targetInd addr16 s }

/-- `JSR $addr` (R222): pushes the address of its own last byte, pc - 1 here, high byte first (the spec's decision
D8; assumption 12). -/
def execJsr (addr16 : Addr) (s : State) : Host.Outcome State Fault Refusal :=
  .next { (s.push (highByte (s.pc - 1))).push (lowByte (s.pc - 1)) with pc := eaAbs addr16 }

/-- `RTS` (R223): pulls the low byte, then the high byte, and goes to that word +16 1 (the spec's decision
D8; assumption 12). -/
def execRts (s : State) : Host.Outcome State Fault Refusal :=
  .next { s.pulled.pulled with pc := joinBytes s.pulled.pullByte s.pullByte + 1 }

end Sys2Proof.Machine
end

