-- ==== Sys2Proof/Machine/FlagHalt.lean ====
section
/-! DEFINITION. The flag-set instructions SEC, SEI and SED, and NOP, which halts the machine
(48_flag_set_halt.md). -/

namespace Sys2Proof.Machine

/-- `SEC` (R240). -/
def execSec (s : State) : Host.Outcome State Fault Refusal :=
  .next (s.setFlag .C true)

/-- `SEI` (R241). -/
def execSei (s : State) : Host.Outcome State Fault Refusal :=
  .next (s.setFlag .I true)

/-- `SED` (R242). -/
def execSed (s : State) : Host.Outcome State Fault Refusal :=
  .next (s.setFlag .D true)

/-- `NOP` (R243): the halt opcode 0xEA, the spec's decision D10 (assumption 14). -/
def execNop (s : State) : Host.Outcome State Fault Refusal :=
  .next { s with mode := .halted }

end Sys2Proof.Machine
end

