-- ==== Sys2Proof/Machine/Load.lean ====
section
/-! DEFINITION. The loads LDA, LDX and LDY (42_load.md): each writes its operand to its register and
recomputes Z and N (R140). -/

namespace Sys2Proof.Machine

/-- `LDA #$nn` (R141). -/
def execLdaImm (imm8 : Byte) (s : State) : Host.Outcome State Fault Refusal :=
  .next (s.load .A imm8)

/-- `LDA $zp` (R142). -/
def execLdaZp (zp8 : Byte) (s : State) : Host.Outcome State Fault Refusal :=
  .next (s.load .A (s.readByte (eaZp zp8)))

/-- `LDA $zp,X` (R143). -/
def execLdaZpx (zp8 : Byte) (s : State) : Host.Outcome State Fault Refusal :=
  .next (s.load .A (s.readByte (eaZpx zp8 s)))

/-- `LDA $addr` (R144). -/
def execLdaAbs (addr16 : Addr) (s : State) : Host.Outcome State Fault Refusal :=
  .next (s.load .A (s.readByte (eaAbs addr16)))

/-- `LDA $addr,X` (R145). -/
def execLdaAbsx (addr16 : Addr) (s : State) : Host.Outcome State Fault Refusal :=
  .next (s.load .A (s.readByte (eaAbsx addr16 s)))

/-- `LDA $addr,Y` (R146). -/
def execLdaAbsy (addr16 : Addr) (s : State) : Host.Outcome State Fault Refusal :=
  .next (s.load .A (s.readByte (eaAbsy addr16 s)))

/-- `LDA ($zp,X)` (R147). -/
def execLdaIndx (zp8 : Byte) (s : State) : Host.Outcome State Fault Refusal :=
  .next (s.load .A (s.readByte (eaIndx zp8 s)))

/-- `LDA ($zp),Y` (R148). -/
def execLdaIndy (zp8 : Byte) (s : State) : Host.Outcome State Fault Refusal :=
  .next (s.load .A (s.readByte (eaIndy zp8 s)))

/-- `LDX #$nn` (R149). -/
def execLdxImm (imm8 : Byte) (s : State) : Host.Outcome State Fault Refusal :=
  .next (s.load .X imm8)

/-- `LDX $zp` (R150). -/
def execLdxZp (zp8 : Byte) (s : State) : Host.Outcome State Fault Refusal :=
  .next (s.load .X (s.readByte (eaZp zp8)))

/-- `LDX $zp,Y` (R151). -/
def execLdxZpy (zp8 : Byte) (s : State) : Host.Outcome State Fault Refusal :=
  .next (s.load .X (s.readByte (eaZpy zp8 s)))

/-- `LDX $addr` (R152). -/
def execLdxAbs (addr16 : Addr) (s : State) : Host.Outcome State Fault Refusal :=
  .next (s.load .X (s.readByte (eaAbs addr16)))

/-- `LDX $addr,Y` (R153). -/
def execLdxAbsy (addr16 : Addr) (s : State) : Host.Outcome State Fault Refusal :=
  .next (s.load .X (s.readByte (eaAbsy addr16 s)))

/-- `LDY #$nn` (R154). -/
def execLdyImm (imm8 : Byte) (s : State) : Host.Outcome State Fault Refusal :=
  .next (s.load .Y imm8)

/-- `LDY $zp` (R155). -/
def execLdyZp (zp8 : Byte) (s : State) : Host.Outcome State Fault Refusal :=
  .next (s.load .Y (s.readByte (eaZp zp8)))

/-- `LDY $zp,X` (R156). -/
def execLdyZpx (zp8 : Byte) (s : State) : Host.Outcome State Fault Refusal :=
  .next (s.load .Y (s.readByte (eaZpx zp8 s)))

/-- `LDY $addr` (R157). -/
def execLdyAbs (addr16 : Addr) (s : State) : Host.Outcome State Fault Refusal :=
  .next (s.load .Y (s.readByte (eaAbs addr16)))

/-- `LDY $addr,X` (R158). -/
def execLdyAbsx (addr16 : Addr) (s : State) : Host.Outcome State Fault Refusal :=
  .next (s.load .Y (s.readByte (eaAbsx addr16 s)))

end Sys2Proof.Machine
end

