-- ==== Sys2Proof/Machine/Logical.lean ====
section
/-! DEFINITION. The logical instructions AND and ORA (43_logical.md R170): that they combine with and
write A is the spec's passage G4 (assumption 15). -/

namespace Sys2Proof.Machine

/-- `Logic(op, v)` with op = AND: A becomes A & v, and Z and N follow the result (R170). -/
def State.andA (s : State) (v : Byte) : State := s.load .A (s.A &&& v)

/-- `Logic(op, v)` with op = OR: A becomes A | v, and Z and N follow the result (R170). -/
def State.oraA (s : State) (v : Byte) : State := s.load .A (s.A ||| v)

/-- `AND #$nn` (R171). -/
def execAndImm (imm8 : Byte) (s : State) : Host.Outcome State Fault Refusal :=
  .next (s.andA imm8)

/-- `AND $zp` (R172). -/
def execAndZp (zp8 : Byte) (s : State) : Host.Outcome State Fault Refusal :=
  .next (s.andA (s.readByte (eaZp zp8)))

/-- `AND $zp,X` (R173). -/
def execAndZpx (zp8 : Byte) (s : State) : Host.Outcome State Fault Refusal :=
  .next (s.andA (s.readByte (eaZpx zp8 s)))

/-- `AND $addr` (R174). -/
def execAndAbs (addr16 : Addr) (s : State) : Host.Outcome State Fault Refusal :=
  .next (s.andA (s.readByte (eaAbs addr16)))

/-- `AND $addr,X` (R175). -/
def execAndAbsx (addr16 : Addr) (s : State) : Host.Outcome State Fault Refusal :=
  .next (s.andA (s.readByte (eaAbsx addr16 s)))

/-- `AND $addr,Y` (R176). -/
def execAndAbsy (addr16 : Addr) (s : State) : Host.Outcome State Fault Refusal :=
  .next (s.andA (s.readByte (eaAbsy addr16 s)))

/-- `AND ($zp,X)` (R177). -/
def execAndIndx (zp8 : Byte) (s : State) : Host.Outcome State Fault Refusal :=
  .next (s.andA (s.readByte (eaIndx zp8 s)))

/-- `AND ($zp),Y` (R178). -/
def execAndIndy (zp8 : Byte) (s : State) : Host.Outcome State Fault Refusal :=
  .next (s.andA (s.readByte (eaIndy zp8 s)))

/-- `ORA #$nn` (R179). -/
def execOraImm (imm8 : Byte) (s : State) : Host.Outcome State Fault Refusal :=
  .next (s.oraA imm8)

/-- `ORA $zp` (R180). -/
def execOraZp (zp8 : Byte) (s : State) : Host.Outcome State Fault Refusal :=
  .next (s.oraA (s.readByte (eaZp zp8)))

/-- `ORA $zp,X` (R181). -/
def execOraZpx (zp8 : Byte) (s : State) : Host.Outcome State Fault Refusal :=
  .next (s.oraA (s.readByte (eaZpx zp8 s)))

/-- `ORA $addr` (R182). -/
def execOraAbs (addr16 : Addr) (s : State) : Host.Outcome State Fault Refusal :=
  .next (s.oraA (s.readByte (eaAbs addr16)))

/-- `ORA $addr,X` (R183). -/
def execOraAbsx (addr16 : Addr) (s : State) : Host.Outcome State Fault Refusal :=
  .next (s.oraA (s.readByte (eaAbsx addr16 s)))

/-- `ORA $addr,Y` (R184). -/
def execOraAbsy (addr16 : Addr) (s : State) : Host.Outcome State Fault Refusal :=
  .next (s.oraA (s.readByte (eaAbsy addr16 s)))

/-- `ORA ($zp,X)` (R185). -/
def execOraIndx (zp8 : Byte) (s : State) : Host.Outcome State Fault Refusal :=
  .next (s.oraA (s.readByte (eaIndx zp8 s)))

/-- `ORA ($zp),Y` (R186). -/
def execOraIndy (zp8 : Byte) (s : State) : Host.Outcome State Fault Refusal :=
  .next (s.oraA (s.readByte (eaIndy zp8 s)))

end Sys2Proof.Machine
end

