-- ==== Sys2Proof/Machine/Shift.lean ====
section
/-! DEFINITION. The shift LSR, of A or of a memory byte (44_shift.md). -/

namespace Sys2Proof.Machine

/-- LSR of the memory byte at an effective address: read, shift, write back to the same address, and
set C, N and Z from the byte read (44_shift.md R200, 41_addressing_modes.md R133). -/
def State.shrMem (s : State) (ea : Addr) : State :=
  (s.writeByte ea (shrResult (s.readByte ea))).setP (shrFlags (s.readByte ea) s.P)

/-- `LSR A` (R201). -/
def execLsrAcc (s : State) : Host.Outcome State Fault Refusal :=
  .next ((s.setReg .A (shrResult s.A)).setP (shrFlags s.A s.P))

/-- `LSR $zp` (R202). -/
def execLsrZp (zp8 : Byte) (s : State) : Host.Outcome State Fault Refusal :=
  .next (s.shrMem (eaZp zp8))

/-- `LSR $zp,X` (R203). -/
def execLsrZpx (zp8 : Byte) (s : State) : Host.Outcome State Fault Refusal :=
  .next (s.shrMem (eaZpx zp8 s))

/-- `LSR $addr` (R204). -/
def execLsrAbs (addr16 : Addr) (s : State) : Host.Outcome State Fault Refusal :=
  .next (s.shrMem (eaAbs addr16))

/-- `LSR $addr,X` (R205). -/
def execLsrAbsx (addr16 : Addr) (s : State) : Host.Outcome State Fault Refusal :=
  .next (s.shrMem (eaAbsx addr16 s))

end Sys2Proof.Machine
end

