-- ==== Sys2Proof/Machine/Stack.lean ====
section
/-! DEFINITION. The stack instructions PHA, PHP, PLA and PLP (45_stack.md). -/

namespace Sys2Proof.Machine

/-- `PHA` (R211): no flag changes. -/
def execPha (s : State) : Host.Outcome State Fault Refusal :=
  .next (s.push s.A)

/-- `PHP` (R212): all eight bits as they stand, none forced. -/
def execPhp (s : State) : Host.Outcome State Fault Refusal :=
  .next (s.push s.P)

/-- `PLA` (R213): Z and N follow the pulled byte. -/
def execPla (s : State) : Host.Outcome State Fault Refusal :=
  .next (s.pulled.load .A s.pullByte)

/-- `PLP` (R214): all eight bits, none ignored. -/
def execPlp (s : State) : Host.Outcome State Fault Refusal :=
  .next (s.pulled.setP s.pullByte)

end Sys2Proof.Machine
end

