-- ==== Sys2Proof/Machine/Transfer.lean ====
section
/-! DEFINITION. The register transfers (47_transfer.md R236): into A, X or Y they recompute Z and N,
into S they change no flag. -/

namespace Sys2Proof.Machine

/-- `TAX` (R230). -/
def execTax (s : State) : Host.Outcome State Fault Refusal :=
  .next (s.load .X s.A)

/-- `TAY` (R231). -/
def execTay (s : State) : Host.Outcome State Fault Refusal :=
  .next (s.load .Y s.A)

/-- `TXA` (R232). -/
def execTxa (s : State) : Host.Outcome State Fault Refusal :=
  .next (s.load .A s.X)

/-- `TYA` (R233). -/
def execTya (s : State) : Host.Outcome State Fault Refusal :=
  .next (s.load .A s.Y)

/-- `TSX` (R234). -/
def execTsx (s : State) : Host.Outcome State Fault Refusal :=
  .next (s.load .X s.S)

/-- `TXS` (R235): no flag changes. -/
def execTxs (s : State) : Host.Outcome State Fault Refusal :=
  .next { s with S := s.X }

end Sys2Proof.Machine
end

