-- ==== Sys2Proof/Machine/Dispatch.lean ====
section
/-! DEFINITION. The dispatch of a decoded instruction to its meaning: one arm per constructor of
`Instr` (40_fetch_dispatch.md R102, R103). The state an arm receives is the one after the
instruction's fetches, with pc at the byte after its last byte (R105). -/

namespace Sys2Proof.Machine

/-- The operation part of an instruction, applied after its fetches (40_fetch_dispatch.md R102, R105). -/
def exec (i : Instr) (s : State) : Host.Outcome State Fault Refusal :=
  match i with
  | .ldaImm imm8 => Sys2Proof.Machine.execLdaImm imm8 s
  | .ldaZp zp8 => Sys2Proof.Machine.execLdaZp zp8 s
  | .ldaZpx zp8 => Sys2Proof.Machine.execLdaZpx zp8 s
  | .ldaAbs addr16 => Sys2Proof.Machine.execLdaAbs addr16 s
  | .ldaAbsx addr16 => Sys2Proof.Machine.execLdaAbsx addr16 s
  | .ldaAbsy addr16 => Sys2Proof.Machine.execLdaAbsy addr16 s
  | .ldaIndx zp8 => Sys2Proof.Machine.execLdaIndx zp8 s
  | .ldaIndy zp8 => Sys2Proof.Machine.execLdaIndy zp8 s
  | .ldxImm imm8 => Sys2Proof.Machine.execLdxImm imm8 s
  | .ldxZp zp8 => Sys2Proof.Machine.execLdxZp zp8 s
  | .ldxZpy zp8 => Sys2Proof.Machine.execLdxZpy zp8 s
  | .ldxAbs addr16 => Sys2Proof.Machine.execLdxAbs addr16 s
  | .ldxAbsy addr16 => Sys2Proof.Machine.execLdxAbsy addr16 s
  | .ldyImm imm8 => Sys2Proof.Machine.execLdyImm imm8 s
  | .ldyZp zp8 => Sys2Proof.Machine.execLdyZp zp8 s
  | .ldyZpx zp8 => Sys2Proof.Machine.execLdyZpx zp8 s
  | .ldyAbs addr16 => Sys2Proof.Machine.execLdyAbs addr16 s
  | .ldyAbsx addr16 => Sys2Proof.Machine.execLdyAbsx addr16 s
  | .andImm imm8 => Sys2Proof.Machine.execAndImm imm8 s
  | .andZp zp8 => Sys2Proof.Machine.execAndZp zp8 s
  | .andZpx zp8 => Sys2Proof.Machine.execAndZpx zp8 s
  | .andAbs addr16 => Sys2Proof.Machine.execAndAbs addr16 s
  | .andAbsx addr16 => Sys2Proof.Machine.execAndAbsx addr16 s
  | .andAbsy addr16 => Sys2Proof.Machine.execAndAbsy addr16 s
  | .andIndx zp8 => Sys2Proof.Machine.execAndIndx zp8 s
  | .andIndy zp8 => Sys2Proof.Machine.execAndIndy zp8 s
  | .oraImm imm8 => Sys2Proof.Machine.execOraImm imm8 s
  | .oraZp zp8 => Sys2Proof.Machine.execOraZp zp8 s
  | .oraZpx zp8 => Sys2Proof.Machine.execOraZpx zp8 s
  | .oraAbs addr16 => Sys2Proof.Machine.execOraAbs addr16 s
  | .oraAbsx addr16 => Sys2Proof.Machine.execOraAbsx addr16 s
  | .oraAbsy addr16 => Sys2Proof.Machine.execOraAbsy addr16 s
  | .oraIndx zp8 => Sys2Proof.Machine.execOraIndx zp8 s
  | .oraIndy zp8 => Sys2Proof.Machine.execOraIndy zp8 s
  | .lsrAcc => Sys2Proof.Machine.execLsrAcc s
  | .lsrZp zp8 => Sys2Proof.Machine.execLsrZp zp8 s
  | .lsrZpx zp8 => Sys2Proof.Machine.execLsrZpx zp8 s
  | .lsrAbs addr16 => Sys2Proof.Machine.execLsrAbs addr16 s
  | .lsrAbsx addr16 => Sys2Proof.Machine.execLsrAbsx addr16 s
  | .pha => Sys2Proof.Machine.execPha s
  | .php => Sys2Proof.Machine.execPhp s
  | .pla => Sys2Proof.Machine.execPla s
  | .plp => Sys2Proof.Machine.execPlp s
  | .jmpAbs addr16 => Sys2Proof.Machine.execJmpAbs addr16 s
  | .jmpInd addr16 => Sys2Proof.Machine.execJmpInd addr16 s
  | .jsr addr16 => Sys2Proof.Machine.execJsr addr16 s
  | .rts => Sys2Proof.Machine.execRts s
  | .tax => Sys2Proof.Machine.execTax s
  | .tay => Sys2Proof.Machine.execTay s
  | .txa => Sys2Proof.Machine.execTxa s
  | .tya => Sys2Proof.Machine.execTya s
  | .tsx => Sys2Proof.Machine.execTsx s
  | .txs => Sys2Proof.Machine.execTxs s
  | .sec => Sys2Proof.Machine.execSec s
  | .sei => Sys2Proof.Machine.execSei s
  | .sed => Sys2Proof.Machine.execSed s
  | .nop => Sys2Proof.Machine.execNop s

end Sys2Proof.Machine
end

