-- ==== Sys2Proof/Machine/Step.lean ====
section
/-! DEFINITION. One step of the machine (40_fetch_dispatch.md R102), and the placing of an instruction
where the next step fetches it. -/

namespace Sys2Proof.Machine

/-- `Step()`: fetch the instruction at pc and execute it. A fault raised by a fetch is taken: the next
state is the Faulted one (60_exceptions.md R255). In mode Halted or Faulted no step is enabled. -/
def step (s : State) : Host.Outcome State Fault Refusal :=
  match s.stepDisabled with
  | some f => .fault f
  | none =>
    match s.fetchInstr with
    | .raised t => .next t
    | .got i t => exec i t

/-- The state with the three bytes of an instruction (Decode.lean's `tableBytes`) stored at pc, where
`step` fetches, and the machine Running, which a step needs: what the host does by HostWrite and HostRun
(70_reset_and_hazards.md R285, R286, R289; assumption 4). -/
def State.withFetchWord (s : State) (nbits w : Nat) : State :=
  { s.writeBytes s.pc (tableBytes nbits w) with mode := .running, fault := none }

end Sys2Proof.Machine
end

