-- ==== Sys2Proof/Machine/HostOps.lean ====
section
/-! DEFINITION. The five host operations (70_reset_and_hazards.md R280 to R288), which act only between
runs (20_memory.md R68), and the run loop (40_fetch_dispatch.md R104). PowerOn is `State.powerOn`. An
operation that has no transition answers `none`. -/

namespace Sys2Proof.Machine

/-- The registers, flags, pc and mode of a reset without an entry address; memory is kept (R281). -/
def State.resetRegisters (s : State) : State :=
  { A := 0x00#8, X := 0x00#8, Y := 0x00#8, pc := Config.resetVector, S := 0x00#8, P := 0x00#8,
    mode := .running, fault := none, mem := s.mem }

/-- `Reset()`: no transition out of Faulted (R281, R284). -/
def State.hostReset (s : State) : Option State :=
  if s.mode = .faulted then none else some s.resetRegisters

/-- `Reset(e)`: write e to the vector, then read pc back from it; no transition out of Faulted (R282,
R284). -/
def State.hostResetEntry (s : State) (e : Addr) : Option State :=
  if s.mode = .faulted then none
  else
    let t := s.resetRegisters.writeWord Config.resetVector e
    some { t with pc := t.readWord Config.resetVector }

/-- `HostRead(addr, 1)`, allowed in every mode between runs (R285). -/
def State.hostReadByte (s : State) (a : Addr) : Byte := s.readByte a

/-- `HostRead(addr, 2)`; at 0xFFFF the high byte is at 0x0000 (R285, 20_memory.md R56). -/
def State.hostReadWord (s : State) (a : Addr) : Addr := s.readWord a

/-- `HostWrite(addr, 1, v)`, allowed in every mode between runs (R285). -/
def State.hostWriteByte (s : State) (a : Addr) (v : Byte) : State := s.writeByte a v

/-- `HostWrite(addr, 2, v)`; at 0xFFFF the high byte goes to 0x0000 (R285, 20_memory.md R56). -/
def State.hostWriteWord (s : State) (a v : Addr) : State := s.writeWord a v

/-- The run loop cut off after `n` steps: the state the run ends in, or `none` if it has not ended by
then (40_fetch_dispatch.md R104). -/
def runWithin : Nat → State → Option State
  | 0, s => if s.mode = .running then none else some s
  | n + 1, s =>
    if s.mode = .running then
      match step s with
      | .next t => runWithin n t
      | .fault _ => none
      | .refused _ => none
    else some s

/-- `Run()` from s ends in t. No bound is set on the number of steps: a run that never ends has no such
t (40_fetch_dispatch.md R104). -/
def RunEnds (s t : State) : Prop := ∃ n, runWithin n s = some t

/-- Where the host's run operation begins: mode is set to Running; on a Faulted machine the operation
does nothing (R286). -/
def State.hostRunStart (s : State) : State :=
  match s.mode with
  | .faulted => s
  | .running | .halted => { s with mode := .running }

/-- The host's run operation applied to s returns with the machine in t (R286). -/
def HostRunEnds (s t : State) : Prop := RunEnds s.hostRunStart t

/-- Bit n of a status byte as the character the rendering shows (10_state.md R42). -/
def bitChar (p : Byte) (n : Nat) : Char := if p.getLsbD n then '1' else '0'

/-- The canonical rendering of a status byte as characters: bit 7 first, bit 0 last (10_state.md R42). -/
def renderChars (p : Byte) : List Char := [7, 6, 5, 4, 3, 2, 1, 0].map (bitChar p)

/-- The canonical rendering of a status byte as a string (10_state.md R42). -/
def render (p : Byte) : String := String.ofList (renderChars p)

/-- The seven items of the diagnostic dump (R288). -/
structure DumpItems where
  pc : Addr
  /-- the source's 16-bit sp, 0x0100 + S -/
  sp16 : Addr
  A : Byte
  X : Byte
  Y : Byte
  /-- the rendering of P -/
  flags : String
  byteAtPc : Byte
  deriving DecidableEq, Repr

/-- `Dump()`: an observation that changes nothing (R288). -/
def State.dump (s : State) : DumpItems where
  pc := s.pc
  sp16 := 0x0100#16 + zext16 s.S
  A := s.A
  X := s.X
  Y := s.Y
  flags := render s.P
  byteAtPc := s.readByte s.pc

end Sys2Proof.Machine
end

