-- ==== Sys2Proof/Safety.lean ====
section
/-! DEFINITION. What claims about this machine are stated with: the end of a run, the machine's
invariant, and the states a run passes through. -/

namespace Sys2Proof

open Machine

/-- The machine has ended a run normally: mode is Halted and there is no fault
(70_reset_and_hazards.md R290, 40_fetch_dispatch.md R106). -/
def EndedNormally (s : State) : Prop := s.mode = .halted ∧ s.fault = none

/-- The fault record and the mode agree, and the record is one that a raise can write: PcOverrun only
with pc = 0xFFFF recorded and held, UnknownOpcode only for a byte outside the table, with pc one past
the address it was fetched from, which is not 0xFFFF (10_state.md R38, 60_exceptions.md R251 to R254). -/
def RecordOk (s : State) : Prop :=
  match s.fault with
  | none => s.mode ≠ .faulted
  | some (.pcOverrun a) => s.mode = .faulted ∧ a = Config.topAddress ∧ s.pc = Config.topAddress
  | some (.unknownOpcode b a) =>
    s.mode = .faulted ∧ opcodeEntry b = none ∧ a ≠ Config.topAddress ∧ s.pc = a + 1

/-- The machine's invariant: memory is in its canonical form (assumption 2), and the fault record agrees
with the mode. -/
def MachineInv (s : State) : Prop := s.mem.wf = true ∧ RecordOk s

/-- The addresses an instruction stores to, from the state its operation begins in: LSR on memory stores
at its effective address, PHA and PHP in the stack cell, JSR in two stack cells, and nothing else stores
(20_memory.md R58, 10_state.md R39). -/
def storesAt (i : Instr) (s : State) : List Addr :=
  match i with
  | .lsrZp zp8 => [eaZp zp8]
  | .lsrZpx zp8 => [eaZpx zp8 s]
  | .lsrAbs addr16 => [eaAbs addr16]
  | .lsrAbsx addr16 => [eaAbsx addr16 s]
  | .pha | .php => [stackCell s.S]
  | .jsr _ => [stackCell s.S, stackCell (s.S - 1)]
  | _ => []

/-- t is reached from s by some number of steps. -/
inductive Reaches : State → State → Prop where
  | here (s : State) : Reaches s s
  | later (s t u : State) (h : step s = .next t) (hr : Reaches t u) : Reaches s u

/-- A safe run from s: no state it passes through has faulted. -/
def SafeFrom (s : State) : Prop := ∀ t, Reaches s t → t.mode ≠ .faulted

end Sys2Proof
end

