-- ==== Sys2Proof/Certificates/Slice0/Obligations.lean ====
section
/-! DEFINITION. The statements for the provers, about the machine and never about a program, with the
words they are written in. `exec i s` is the operation of i from the state after its fetches, with pc
past its last byte (40_fetch_dispatch.md R105). A statement that rests on a decision the spec marks as its
own (D<n> of 92_eei_decisions.md) or on a passage from general knowledge (G<n>) says so, with the log
entry. -/

namespace Sys2Proof.Claims

open Machine

/-- p' is p with bit 1 (Z) telling whether v is 0, bit 7 (N) equal to bit 7 of v, and the other six bits
as they were (10_state.md R35). -/
def ZNFrom (v p p' : Byte) : Prop :=
  p'.getLsbD 1 = decide (v.toNat = 0) ∧ p'.getLsbD 7 = decide (128 ≤ v.toNat) ∧
    ∀ n, n < 8 → n ≠ 1 → n ≠ 7 → p'.getLsbD n = p.getLsbD n

/-- p' is p with bit 0 (C) the lowest bit of v, bit 7 (N) clear, bit 1 (Z) telling whether v halved is 0, and
the other five bits as they were (44_shift.md R200). -/
def ShiftFlags (v p p' : Byte) : Prop :=
  p'.getLsbD 0 = decide (v.toNat % 2 = 1) ∧ p'.getLsbD 7 = false ∧ p'.getLsbD 1 = decide (v.toNat / 2 = 0) ∧
    ∀ n, n < 8 → n ≠ 0 → n ≠ 1 → n ≠ 7 → p'.getLsbD n = p.getLsbD n

/-- p' is p with bit k set and the other seven bits as they were (10_state.md R36). -/
def BitSet (k : Nat) (p p' : Byte) : Prop :=
  p'.getLsbD k = true ∧ ∀ n, n < 8 → n ≠ k → p'.getLsbD n = p.getLsbD n

/-- t is s with v in A and Z and N from v; everything else is as in s. -/
def LoadedA (v : Byte) (s t : State) : Prop := ∃ p, ZNFrom v s.P p ∧ t = { s with A := v, P := p }

/-- t is s with v in X and Z and N from v; everything else is as in s. -/
def LoadedX (v : Byte) (s t : State) : Prop := ∃ p, ZNFrom v s.P p ∧ t = { s with X := v, P := p }

/-- t is s with v in Y and Z and N from v; everything else is as in s. -/
def LoadedY (v : Byte) (s t : State) : Prop := ∃ p, ZNFrom v s.P p ∧ t = { s with Y := v, P := p }

/-- t is s with the byte at ea halved, every other byte as it was, the shift's flags, and no register but
P changed. -/
def ShiftedAt (ea : Addr) (s t : State) : Prop :=
  (t.readByte ea).toNat = (s.readByte ea).toNat / 2 ∧
    (∀ a, a ≠ ea → t.readByte a = s.readByte a) ∧
    ShiftFlags (s.readByte ea) s.P t.P ∧
    t.A = s.A ∧ t.X = s.X ∧ t.Y = s.Y ∧ t.S = s.S ∧ t.pc = s.pc ∧ t.mode = s.mode ∧ t.fault = s.fault

/-- The stack cell of offset x: page 0x01, written as the spec's `0x0100 | zext16(S)` (10_state.md R25). -/
def cell (x : Byte) : Addr := 0x0100#16 ||| zext16 x

/-- t is s with v stored in the stack cell of S and S one less, modulo 256; nothing else changed. -/
def PushedOnce (v : Byte) (s t : State) : Prop :=
  (∀ a, t.readByte a = if a = cell s.S then v else s.readByte a) ∧ t.S.toNat = (s.S.toNat + 255) % 256 ∧
    t.A = s.A ∧ t.X = s.X ∧ t.Y = s.Y ∧ t.P = s.P ∧ t.pc = s.pc ∧ t.mode = s.mode ∧ t.fault = s.fault

/-- The 16 one-byte opcodes of 30_encoding.md R84. -/
def oneByteOpcodes : List Byte :=
  [0x08#8, 0x28#8, 0x38#8, 0x48#8, 0x4A#8, 0x60#8, 0x68#8, 0x78#8, 0x8A#8, 0x98#8, 0x9A#8, 0xA8#8, 0xAA#8,
   0xBA#8, 0xEA#8, 0xF8#8]

/-- The 23 two-byte opcodes of 30_encoding.md R84. -/
def twoByteOpcodes : List Byte :=
  [0x01#8, 0x05#8, 0x09#8, 0x11#8, 0x15#8, 0x21#8, 0x25#8, 0x29#8, 0x31#8, 0x35#8, 0x46#8, 0x56#8, 0xA0#8,
   0xA1#8, 0xA2#8, 0xA4#8, 0xA5#8, 0xA6#8, 0xA9#8, 0xB1#8, 0xB4#8, 0xB5#8, 0xB6#8]

/-- The 18 three-byte opcodes of 30_encoding.md R84. -/
def threeByteOpcodes : List Byte :=
  [0x0D#8, 0x19#8, 0x1D#8, 0x20#8, 0x2D#8, 0x39#8, 0x3D#8, 0x4C#8, 0x4E#8, 0x5E#8, 0x6C#8, 0xAC#8, 0xAD#8,
   0xAE#8, 0xB9#8, 0xBC#8, 0xBD#8, 0xBE#8]

/-- The 57 opcodes with a meaning (30_encoding.md R84). -/
def legalOpcodes : List Byte := oneByteOpcodes ++ twoByteOpcodes ++ threeByteOpcodes

/-- s after PcOverrun was raised in it: pc is 0xFFFF, the mode Faulted, the record written, and nothing
else changed (60_exceptions.md R251, R253). -/
def afterOverrun (s : State) : State :=
  { s with pc := 0xFFFF#16, mode := .faulted, fault := some (.pcOverrun 0xFFFF#16) }

/-- Push the bytes of a list, the first one first. -/
def pushAll : List Byte → State → State
  | [], s => s
  | b :: bs, s => pushAll bs (s.push b)

/-- Pull n bytes: the bytes in the order they come, and the state after. -/
def pullAll : Nat → State → List Byte × State
  | 0, s => ([], s)
  | n + 1, s => (s.pullByte :: (pullAll n s.pulled).1, (pullAll n s.pulled).2)

/-- The instructions that write A (10_state.md R21). -/
def writesA (i : Instr) : Prop := i = .lsrAcc ∨ i.mnemonic ∈ [.lda, .and, .ora, .pla, .txa, .tya]

/-- The instructions that write X (10_state.md R22). -/
def writesX (i : Instr) : Prop := i.mnemonic ∈ [.ldx, .tax, .tsx]

/-- The instructions that write Y (10_state.md R23). -/
def writesY (i : Instr) : Prop := i.mnemonic ∈ [.ldy, .tay]

end Sys2Proof.Claims

open Sys2Proof Sys2Proof.Machine Sys2Proof.Claims

/-! ## Memory -/

/-- MemWrite of a byte sets that byte, for reads and for fetches, and changes no other byte and no register
(20_memory.md R52). -/
def Obligations.ByteWriteChangesOneByteOnly : Prop :=
  ∀ (s : State) (a : Addr) (v : Byte),
    (s.writeByte a v).readByte a = v ∧
    (s.pc = a → a ≠ 0xFFFF#16 → ∃ t, (s.writeByte a v).fetchByte = .got v t) ∧
    (∀ j, j ≠ a → (s.writeByte a v).readByte j = s.readByte j) ∧
    { s.writeByte a v with mem := s.mem } = s

/-- MemRead of a word: the byte at the lower address is the less significant, and the higher address is
taken modulo 65536, so at 0xFFFF it is 0x0000 (20_memory.md, section 2; the word at 0xFFFF is the spec's
decision D7, assumption 6). -/
def Obligations.WordReadIsLittleEndian : Prop :=
  ∀ (s : State) (a b : Addr), b.toNat = (a.toNat + 1) % 65536 →
    (s.readWord a).toNat = (s.readByte b).toNat * 256 + (s.readByte a).toNat

/-- MemWrite of a word stores its low byte at the address and its high byte at the next address modulo
65536, reads back whole, and changes nothing else (20_memory.md, section 2; the word at 0xFFFF is the spec's
decision D7, assumption 6; D15, assumption 18: the order of the two byte writes cannot be told). -/
def Obligations.WordWriteStoresTwoBytesAndReadsBack : Prop :=
  ∀ (s : State) (a b v : Addr), b.toNat = (a.toNat + 1) % 65536 →
    ((s.writeWord a v).readByte a).toNat = v.toNat % 256 ∧
    ((s.writeWord a v).readByte b).toNat = v.toNat / 256 ∧
    (s.writeWord a v).readWord a = v ∧
    (∀ j, j ≠ a → j ≠ b → (s.writeWord a v).readByte j = s.readByte j) ∧
    { s.writeWord a v with mem := s.mem } = s

/-- Memory is a total function from the 65536 addresses to bytes: two canonical memories that read alike at
every address are the same data, so the list form adds nothing to the spec's memory (10_state.md, section
6; the list form is the model's own, assumption 2). -/
def Obligations.CanonicalMemoriesThatReadAlikeAreEqual : Prop :=
  ∀ m m' : Memory, m.wf = true → m'.wf = true → (∀ a : Addr, m.lookup a.toNat = m'.lookup a.toNat) → m = m'

/-! ## Flags -/

/-- `SetZN(v)` writes Z and N from v, never both 1, and no other bit; it is applied to the value that was
placed into the destination register (10_state.md, section 5; the places of Z and N are the spec's decision
D2, assumption 9). -/
def Obligations.SetZNWritesZAndNOnly : Prop :=
  (∀ v p : Byte, ZNFrom v p (setZN v p) ∧ ¬((setZN v p).getLsbD 1 = true ∧ (setZN v p).getLsbD 7 = true)) ∧
  (∀ (s : State) (r : Reg) (v : Byte), (s.load r v).reg r = v ∧ (s.load r v).P = setZN ((s.load r v).reg r) s.P)

/-- Writing one flag writes exactly the named bit, leaves the other seven, and is idempotent (10_state.md
R36). The positions of the named bits are the spec's decision D2 (assumption 9). -/
def Obligations.OneFlagWriteLeavesTheOtherSevenBits : Prop :=
  ∀ (f : Flag) (b : Bool) (p : Byte),
    getFlag f (Machine.setFlag f b p) = b ∧
    (∀ n, n < 8 → n ≠ f.bit → (Machine.setFlag f b p).getLsbD n = p.getLsbD n) ∧
    Machine.setFlag f b (Machine.setFlag f b p) = Machine.setFlag f b p

/-- The rendering of P is eight characters '0' and '1', bit 7 first and bit 0 last; 0x02 and 0x81 render as
the rule says (10_state.md R42). -/
def Obligations.RenderingShowsBitSevenFirst : Prop :=
  (∀ p : Byte, (renderChars p).length = 8 ∧
    ∀ n, n < 8 → (renderChars p)[7 - n]? = some (if p.getLsbD n then '1' else '0')) ∧
  (∀ p : Byte, (render p).toList = renderChars p) ∧
  render 0x02#8 = "00000010" ∧ render 0x81#8 = "10000001"

/-- No instruction but PLP changes V, the unnamed bit 5 or B; none but PLP and SEI changes I; none but PLP
and SED changes D; none but PLP, SEC and LSR changes C (95_test_vectors.md, the law of flag independence;
bit positions: the spec's decision D2, assumption 9). -/
def Obligations.FlagsChangeOnlyByTheirOwnInstructions : Prop :=
  ∀ (i : Instr) (s t : State), exec i s = .next t → i ≠ .plp →
    t.P.getLsbD 6 = s.P.getLsbD 6 ∧ t.P.getLsbD 5 = s.P.getLsbD 5 ∧ t.P.getLsbD 4 = s.P.getLsbD 4 ∧
    (i ≠ .sei → t.P.getLsbD 2 = s.P.getLsbD 2) ∧
    (i ≠ .sed → t.P.getLsbD 3 = s.P.getLsbD 3) ∧
    (i ≠ .sec → i.mnemonic ≠ .lsr → t.P.getLsbD 0 = s.P.getLsbD 0)

/-- Every instruction that writes A, X or Y also writes Z and N from the value written (10_state.md, section
2; that AND and ORA write A is the spec's passage G4, assumption 15; the places of Z and N are the spec's
decision D2, assumption 9). -/
def Obligations.EveryRegisterWriteSetsZAndN : Prop :=
  ∀ (i : Instr) (s t : State), exec i s = .next t →
    (writesA i → t.P.getLsbD 1 = decide (t.A.toNat = 0) ∧ t.P.getLsbD 7 = decide (128 ≤ t.A.toNat)) ∧
    (writesX i → t.P.getLsbD 1 = decide (t.X.toNat = 0) ∧ t.P.getLsbD 7 = decide (128 ≤ t.X.toNat)) ∧
    (writesY i → t.P.getLsbD 1 = decide (t.Y.toNat = 0) ∧ t.P.getLsbD 7 = decide (128 ≤ t.Y.toNat))

/-- The flags steer nothing: from two Running states that differ in P alone, one step gives states that
differ in P alone, and for the opcode PHP (0x08), which pushes P, also in the byte of the cell it pushes to
(10_state.md, section 5; 40_fetch_dispatch.md; 46_control_flow.md; D23, assumption 17; the cell is the
spec's decision D1, assumption 8; 0x08: D3, assumption 7). -/
def Obligations.FlagsSteerNothing : Prop :=
  ∀ (s t : State) (p : Byte), s.mode = .running → step s = .next t →
    (s.readByte s.pc ≠ 0x08#8 → ∃ p', step { s with P := p } = .next { t with P := p' }) ∧
    (s.readByte s.pc = 0x08#8 → ∃ t', step { s with P := p } = .next t' ∧
      t'.A = t.A ∧ t'.X = t.X ∧ t'.Y = t.Y ∧ t'.S = t.S ∧ t'.pc = t.pc ∧ t'.mode = t.mode ∧ t'.fault = t.fault ∧
      ∀ a, a ≠ cell s.S → t'.readByte a = t.readByte a)

/-! ## Operand forms -/

/-- The effective addresses of the direct forms, as numbers: zero page; zero page indexed, a sum that is not
reduced (the spec's decision D5, assumption 10); absolute; absolute indexed, modulo 65536
(41_addressing_modes.md, section 2). -/
def Obligations.DirectFormsComputeTheirAddress : Prop :=
  ∀ (zp8 : Byte) (addr16 : Addr) (s : State),
    (eaZp zp8).toNat = zp8.toNat ∧
    (eaZpx zp8 s).toNat = zp8.toNat + s.X.toNat ∧
    (eaZpy zp8 s).toNat = zp8.toNat + s.Y.toNat ∧
    (eaAbs addr16).toNat = addr16.toNat ∧
    (eaAbsx addr16 s).toNat = (addr16.toNat + s.X.toNat) % 65536 ∧
    (eaAbsy addr16 s).toNat = (addr16.toNat + s.Y.toNat) % 65536

/-- The effective addresses of the two indirect zero-page forms: the pointer's low byte is at the unreduced
address, its high byte at the next one (the spec's decision D5, assumption 10), and Y is added modulo
65536 (41_addressing_modes.md, section 3). -/
def Obligations.IndirectFormsReadTheirPointer : Prop :=
  ∀ (zp8 : Byte) (s : State),
    (eaIndx zp8 s).toNat =
      (s.readByte (BitVec.ofNat 16 (zp8.toNat + s.X.toNat + 1))).toNat * 256 +
        (s.readByte (BitVec.ofNat 16 (zp8.toNat + s.X.toNat))).toNat ∧
    (eaIndy zp8 s).toNat =
      ((s.readByte (BitVec.ofNat 16 (zp8.toNat + 1))).toNat * 256 +
        (s.readByte (BitVec.ofNat 16 zp8.toNat)).toNat + s.Y.toNat) % 65536

/-! ## Loads, logical instructions, shifts -/

/-- Every load, in each of its forms, completes, writes the operand its form delivers to its register,
recomputes Z and N from it, and changes nothing else (42_load.md; the places of Z and N are the spec's
decision D2, assumption 9; the 18 forms, LDA 8, LDX 5 and LDY 5, are its decision D4, assumption 7). -/
def Obligations.LoadsWriteTheirOperandAndZN : Prop :=
  (∀ (imm8 : Byte) (s : State), ∃ t, exec (.ldaImm imm8) s = .next t ∧ LoadedA imm8 s t) ∧
  (∀ (zp8 : Byte) (s : State), ∃ t, exec (.ldaZp zp8) s = .next t ∧ LoadedA (s.readByte (eaZp zp8)) s t) ∧
  (∀ (zp8 : Byte) (s : State), ∃ t, exec (.ldaZpx zp8) s = .next t ∧ LoadedA (s.readByte (eaZpx zp8 s)) s t) ∧
  (∀ (addr16 : Addr) (s : State), ∃ t, exec (.ldaAbs addr16) s = .next t ∧ LoadedA (s.readByte (eaAbs addr16)) s t) ∧
  (∀ (addr16 : Addr) (s : State),
    ∃ t, exec (.ldaAbsx addr16) s = .next t ∧ LoadedA (s.readByte (eaAbsx addr16 s)) s t) ∧
  (∀ (addr16 : Addr) (s : State),
    ∃ t, exec (.ldaAbsy addr16) s = .next t ∧ LoadedA (s.readByte (eaAbsy addr16 s)) s t) ∧
  (∀ (zp8 : Byte) (s : State), ∃ t, exec (.ldaIndx zp8) s = .next t ∧ LoadedA (s.readByte (eaIndx zp8 s)) s t) ∧
  (∀ (zp8 : Byte) (s : State), ∃ t, exec (.ldaIndy zp8) s = .next t ∧ LoadedA (s.readByte (eaIndy zp8 s)) s t) ∧
  (∀ (imm8 : Byte) (s : State), ∃ t, exec (.ldxImm imm8) s = .next t ∧ LoadedX imm8 s t) ∧
  (∀ (zp8 : Byte) (s : State), ∃ t, exec (.ldxZp zp8) s = .next t ∧ LoadedX (s.readByte (eaZp zp8)) s t) ∧
  (∀ (zp8 : Byte) (s : State), ∃ t, exec (.ldxZpy zp8) s = .next t ∧ LoadedX (s.readByte (eaZpy zp8 s)) s t) ∧
  (∀ (addr16 : Addr) (s : State), ∃ t, exec (.ldxAbs addr16) s = .next t ∧ LoadedX (s.readByte (eaAbs addr16)) s t) ∧
  (∀ (addr16 : Addr) (s : State),
    ∃ t, exec (.ldxAbsy addr16) s = .next t ∧ LoadedX (s.readByte (eaAbsy addr16 s)) s t) ∧
  (∀ (imm8 : Byte) (s : State), ∃ t, exec (.ldyImm imm8) s = .next t ∧ LoadedY imm8 s t) ∧
  (∀ (zp8 : Byte) (s : State), ∃ t, exec (.ldyZp zp8) s = .next t ∧ LoadedY (s.readByte (eaZp zp8)) s t) ∧
  (∀ (zp8 : Byte) (s : State), ∃ t, exec (.ldyZpx zp8) s = .next t ∧ LoadedY (s.readByte (eaZpx zp8 s)) s t) ∧
  (∀ (addr16 : Addr) (s : State), ∃ t, exec (.ldyAbs addr16) s = .next t ∧ LoadedY (s.readByte (eaAbs addr16)) s t) ∧
  (∀ (addr16 : Addr) (s : State),
    ∃ t, exec (.ldyAbsx addr16) s = .next t ∧ LoadedY (s.readByte (eaAbsx addr16 s)) s t)

/-- AND, in each of its eight forms, completes, writes A and-ed bit by bit with the operand to A, recomputes
Z and N from the result, and changes nothing else (43_logical.md; that AND combines with and writes A is the
spec's passage G4, assumption 15; the places of Z and N are the spec's decision D2, assumption 9; the eight
forms are its decision D4, assumption 7). -/
def Obligations.AndCombinesTheOperandIntoA : Prop :=
  (∀ (imm8 : Byte) (s : State), ∃ t, exec (.andImm imm8) s = .next t ∧ LoadedA (s.A &&& imm8) s t) ∧
  (∀ (zp8 : Byte) (s : State),
    ∃ t, exec (.andZp zp8) s = .next t ∧ LoadedA (s.A &&& s.readByte (eaZp zp8)) s t) ∧
  (∀ (zp8 : Byte) (s : State),
    ∃ t, exec (.andZpx zp8) s = .next t ∧ LoadedA (s.A &&& s.readByte (eaZpx zp8 s)) s t) ∧
  (∀ (addr16 : Addr) (s : State),
    ∃ t, exec (.andAbs addr16) s = .next t ∧ LoadedA (s.A &&& s.readByte (eaAbs addr16)) s t) ∧
  (∀ (addr16 : Addr) (s : State),
    ∃ t, exec (.andAbsx addr16) s = .next t ∧ LoadedA (s.A &&& s.readByte (eaAbsx addr16 s)) s t) ∧
  (∀ (addr16 : Addr) (s : State),
    ∃ t, exec (.andAbsy addr16) s = .next t ∧ LoadedA (s.A &&& s.readByte (eaAbsy addr16 s)) s t) ∧
  (∀ (zp8 : Byte) (s : State),
    ∃ t, exec (.andIndx zp8) s = .next t ∧ LoadedA (s.A &&& s.readByte (eaIndx zp8 s)) s t) ∧
  (∀ (zp8 : Byte) (s : State),
    ∃ t, exec (.andIndy zp8) s = .next t ∧ LoadedA (s.A &&& s.readByte (eaIndy zp8 s)) s t)

/-- ORA, in each of its eight forms, completes, writes A or-ed bit by bit with the operand to A, recomputes
Z and N from the result, and changes nothing else (43_logical.md; that ORA combines with and writes A is the
spec's passage G4, assumption 15; the places of Z and N are the spec's decision D2, assumption 9; the eight
forms are its decision D4, assumption 7). -/
def Obligations.OraCombinesTheOperandIntoA : Prop :=
  (∀ (imm8 : Byte) (s : State), ∃ t, exec (.oraImm imm8) s = .next t ∧ LoadedA (s.A ||| imm8) s t) ∧
  (∀ (zp8 : Byte) (s : State),
    ∃ t, exec (.oraZp zp8) s = .next t ∧ LoadedA (s.A ||| s.readByte (eaZp zp8)) s t) ∧
  (∀ (zp8 : Byte) (s : State),
    ∃ t, exec (.oraZpx zp8) s = .next t ∧ LoadedA (s.A ||| s.readByte (eaZpx zp8 s)) s t) ∧
  (∀ (addr16 : Addr) (s : State),
    ∃ t, exec (.oraAbs addr16) s = .next t ∧ LoadedA (s.A ||| s.readByte (eaAbs addr16)) s t) ∧
  (∀ (addr16 : Addr) (s : State),
    ∃ t, exec (.oraAbsx addr16) s = .next t ∧ LoadedA (s.A ||| s.readByte (eaAbsx addr16 s)) s t) ∧
  (∀ (addr16 : Addr) (s : State),
    ∃ t, exec (.oraAbsy addr16) s = .next t ∧ LoadedA (s.A ||| s.readByte (eaAbsy addr16 s)) s t) ∧
  (∀ (zp8 : Byte) (s : State),
    ∃ t, exec (.oraIndx zp8) s = .next t ∧ LoadedA (s.A ||| s.readByte (eaIndx zp8 s)) s t) ∧
  (∀ (zp8 : Byte) (s : State),
    ∃ t, exec (.oraIndy zp8) s = .next t ∧ LoadedA (s.A ||| s.readByte (eaIndy zp8 s)) s t)

/-- LSR, in each of its five forms, completes, halves its operand in place (A, or the byte at the effective
address), sets C to the bit shifted out, clears N, sets Z from the result, does not read the old C, and
changes nothing else (44_shift.md; the places of C, Z and N are the spec's decision D2, assumption 9; the
five forms are its decision D4, assumption 7). -/
def Obligations.LsrShiftsRightInPlace : Prop :=
  (∀ s : State, ∃ t, exec .lsrAcc s = .next t ∧
    ∃ r p : Byte, r.toNat = s.A.toNat / 2 ∧ ShiftFlags s.A s.P p ∧ t = { s with A := r, P := p }) ∧
  (∀ (zp8 : Byte) (s : State), ∃ t, exec (.lsrZp zp8) s = .next t ∧ ShiftedAt (eaZp zp8) s t) ∧
  (∀ (zp8 : Byte) (s : State), ∃ t, exec (.lsrZpx zp8) s = .next t ∧ ShiftedAt (eaZpx zp8 s) s t) ∧
  (∀ (addr16 : Addr) (s : State), ∃ t, exec (.lsrAbs addr16) s = .next t ∧ ShiftedAt (eaAbs addr16) s t) ∧
  (∀ (addr16 : Addr) (s : State), ∃ t, exec (.lsrAbsx addr16) s = .next t ∧ ShiftedAt (eaAbsx addr16 s) s t)

/-! ## Stack -/

/-- PHA and PHP complete: they store A, or all eight bits of P as they stand, in the stack cell 0x0100 | S and
decrement S modulo 256; no flag and nothing else changes (45_stack.md; the 8-bit S in page 0x01 is the
spec's decision D1, assumption 8). -/
def Obligations.PushesStoreOneByteAndDecrementS : Prop :=
  (∀ s : State, ∃ t, exec .pha s = .next t ∧ PushedOnce s.A s t) ∧
  (∀ s : State, ∃ t, exec .php s = .next t ∧ PushedOnce s.P s t)

/-- PLA and PLP complete: they increment S modulo 256 and read the stack cell of the new S, PLA into A with
Z and N from the byte, PLP into all eight bits of P; nothing else changes, the cell pulled from included
(45_stack.md; the 8-bit S in page 0x01 is the spec's decision D1, assumption 8; the places of Z and N are
its decision D2, assumption 9). -/
def Obligations.PullsReadTheCellAfterIncrement : Prop :=
  (∀ s : State, ∃ t, exec .pla s = .next t ∧ LoadedA (s.readByte (cell (s.S + 1))) { s with S := s.S + 1 } t) ∧
  (∀ s : State, exec .plp s = .next { s with S := s.S + 1, P := s.readByte (cell (s.S + 1)) })

/-- Pushing A and pulling it restores A and S and sets Z and N from A; pushing P and pulling it restores all
eight bits of P and S; pc may be anything in between (95_test_vectors.md S2; 45_stack.md; the 8-bit S is the
spec's decision D1, assumption 8; the places of Z and N are its decision D2, assumption 9). -/
def Obligations.PushThenPullRestores : Prop :=
  ∀ (s : State) (q : Addr),
    (∃ t u, exec .pha s = .next t ∧ exec .pla { t with pc := q } = .next u ∧
      u.A = s.A ∧ u.X = s.X ∧ u.Y = s.Y ∧ u.S = s.S ∧ ZNFrom s.A s.P u.P) ∧
    (∃ t u, exec .php s = .next t ∧ exec .plp { t with pc := q } = .next u ∧
      u.A = s.A ∧ u.X = s.X ∧ u.Y = s.Y ∧ u.S = s.S ∧ u.P = s.P)

/-- The stack is last in, first out within its page: n pushes and then n pulls, n at most 256, return the
bytes in reverse order and restore S, no push writes outside page 0x01, and a 257th push overwrites the
first (95_test_vectors.md, the stack law; 45_stack.md; the 8-bit S is the spec's decision D1, assumption
8). -/
def Obligations.StackIsLastInFirstOutWithinItsPage : Prop :=
  (∀ (bs : List Byte) (s : State), bs.length ≤ 256 →
    (pullAll bs.length (pushAll bs s)).1 = bs.reverse ∧ (pullAll bs.length (pushAll bs s)).2.S = s.S) ∧
  (∀ (bs : List Byte) (s : State) (a : Addr), ¬(0x0100 ≤ a.toNat ∧ a.toNat ≤ 0x01FF) →
    (pushAll bs s).readByte a = s.readByte a) ∧
  (∀ (bs : List Byte) (b : Byte) (s : State), bs.length = 256 →
    (pushAll (bs ++ [b]) s).readByte (cell s.S) = b)

/-! ## Control transfer -/

/-- JMP absolute completes and sets pc to the fetched address; nothing else changes (46_control_flow.md). -/
def Obligations.JumpAbsoluteGoesToItsOperand : Prop :=
  ∀ (addr16 : Addr) (s : State), exec (.jmpAbs addr16) s = .next { s with pc := addr16 }

/-- JMP indirect completes and sets pc to the word whose low byte is at the pointer and whose high byte is at
the next address of the same page: for a pointer that ends in 0xFF, at the page's first byte and not in the
next page; nothing else changes (46_control_flow.md; 41_addressing_modes.md, section 3). -/
def Obligations.JumpIndirectStaysInThePointersPage : Prop :=
  ∀ (ptr high : Addr) (s : State),
    high.toNat = (if ptr.toNat % 256 = 255 then ptr.toNat - 255 else ptr.toNat + 1) →
    ∃ target : Addr, target.toNat = (s.readByte high).toNat * 256 + (s.readByte ptr).toNat ∧
      exec (.jmpInd ptr) s = .next { s with pc := target }

/-- JSR completes: with pc past its last byte, it stores the high byte of pc - 1 in the stack cell of S and the
low byte in the cell of S - 1, lowers S by two modulo 256 and goes to its operand; no other byte, register
or flag changes (46_control_flow.md; which cells and in which order is the spec's decision D8, assumption
12; the 8-bit S is D1, assumption 8). -/
def Obligations.JsrPushesItsLastByteAddressAndJumps : Prop :=
  ∀ (addr16 : Addr) (s : State), ∃ t, exec (.jsr addr16) s = .next t ∧
    (t.readByte (cell s.S)).toNat = ((s.pc.toNat + 65535) % 65536) / 256 ∧
    (t.readByte (cell (s.S - 1))).toNat = ((s.pc.toNat + 65535) % 65536) % 256 ∧
    (∀ a, a ≠ cell s.S → a ≠ cell (s.S - 1) → t.readByte a = s.readByte a) ∧
    t.S = s.S - 2 ∧ t.pc = addr16 ∧
    t.A = s.A ∧ t.X = s.X ∧ t.Y = s.Y ∧ t.P = s.P ∧ t.mode = s.mode ∧ t.fault = s.fault

/-- RTS completes: it pulls the low byte from the cell of S + 1 and the high byte from the cell of S + 2, raises
S by two modulo 256 and goes to that word plus one modulo 65536; nothing else changes (46_control_flow.md;
the order is the spec's decision D8, assumption 12; the 8-bit S is D1, assumption 8). -/
def Obligations.RtsReturnsToThePulledWordPlusOne : Prop :=
  ∀ s : State, ∃ target : Addr,
    target.toNat =
      ((s.readByte (cell (s.S + 2))).toNat * 256 + (s.readByte (cell (s.S + 1))).toNat + 1) % 65536 ∧
    exec .rts s = .next { s with S := s.S + 2, pc := target }

/-- Calling and returning at once leaves pc at the instruction after the call, S as before the call, and A,
X, Y and P unchanged (95_test_vectors.md S4; 46_control_flow.md; the order of the bytes is the spec's
decision D8, assumption 12; the 8-bit S is D1, assumption 8). -/
def Obligations.CallThenReturnComesBackAfterTheCall : Prop :=
  ∀ (addr16 q : Addr) (s : State), ∃ t u, exec (.jsr addr16) s = .next t ∧ exec .rts { t with pc := q } = .next u ∧
    u.pc = s.pc ∧ u.S = s.S ∧ u.A = s.A ∧ u.X = s.X ∧ u.Y = s.Y ∧ u.P = s.P

/-! ## Transfers, flag sets, halt -/

/-- The six transfers complete: each copies its source to its destination; into A, X or Y they recompute Z
and N from the value, into S they change no flag; nothing else changes (47_transfer.md; that TSX and TXS
copy the 8-bit S is the spec's decision D16, assumption 8; the places of Z and N are its decision D2,
assumption 9). -/
def Obligations.TransfersCopyTheirSource : Prop :=
  (∀ s : State, ∃ t, exec .tax s = .next t ∧ LoadedX s.A s t) ∧
  (∀ s : State, ∃ t, exec .tay s = .next t ∧ LoadedY s.A s t) ∧
  (∀ s : State, ∃ t, exec .txa s = .next t ∧ LoadedA s.X s t) ∧
  (∀ s : State, ∃ t, exec .tya s = .next t ∧ LoadedA s.Y s t) ∧
  (∀ s : State, ∃ t, exec .tsx s = .next t ∧ LoadedX s.S s t) ∧
  (∀ s : State, exec .txs s = .next { s with S := s.X })

/-- SEC, SEI and SED complete: each sets its flag (bits 0, 2 and 3) and changes nothing else
(48_flag_set_halt.md; that SED really sets D is the spec's decision D11, assumption 17; bit positions: D2,
assumption 9). -/
def Obligations.FlagSetsSetOneBit : Prop :=
  (∀ s : State, ∃ p, BitSet 0 s.P p ∧ exec .sec s = .next { s with P := p }) ∧
  (∀ s : State, ∃ p, BitSet 2 s.P p ∧ exec .sei s = .next { s with P := p }) ∧
  (∀ s : State, ∃ p, BitSet 3 s.P p ∧ exec .sed s = .next { s with P := p })

/-- NOP, opcode 0xEA, completes by halting the machine: mode becomes Halted and nothing else changes
(48_flag_set_halt.md; that 0xEA halts is the spec's decision D10, assumption 14). -/
def Obligations.NopHaltsAndChangesNothingElse : Prop :=
  ∀ s : State, exec .nop s = .next { s with mode := .halted }

/-! ## Frames over all instructions -/

/-- What each instruction leaves unchanged: a general register, S, pc and the mode change only by the
instructions the spec names for each, the fault record by none, and every byte of memory outside the
addresses the instruction stores to reads as before (10_state.md, sections 2 to 6; 20_memory.md). The
addresses are the model's own storesAt: the cells of JSR are the spec's decision D8, assumption 12, those of
every push D1, assumption 8, and the zero-page indexed address of LSR D5, assumption 10. That AND and ORA
write A, and so leave X and Y, is the spec's passage G4, assumption 15; that TXS writes S and TSX X is D16,
assumption 8; that NOP changes the mode is D10, assumption 14. -/
def Obligations.InstructionsLeaveTheRestUnchanged : Prop :=
  ∀ (i : Instr) (s t : State), exec i s = .next t →
    (¬writesA i → t.A = s.A) ∧ (¬writesX i → t.X = s.X) ∧ (¬writesY i → t.Y = s.Y) ∧
    (i.mnemonic ∉ [.pha, .php, .pla, .plp, .jsr, .rts, .txs] → t.S = s.S) ∧
    (i.mnemonic ∉ [.jmp, .jsr, .rts] → t.pc = s.pc) ∧
    (i ≠ .nop → t.mode = s.mode) ∧ t.fault = s.fault ∧
    (∀ a, a ∉ storesAt i s → t.readByte a = s.readByte a)

/-! ## Encoding -/

/-- Decoding an encoded instruction gives it back, with every operand at every value and whatever bytes
follow; and whatever decodes to an instruction is that instruction's encoding followed by the rest, so every
encoding has one meaning (30_encoding.md; opcode bytes: the spec's decision D3, assumption 7). -/
def Obligations.DecodeAndEncodeAgree : Prop :=
  (∀ (i : Instr) (rest : List Byte), decode (encode i ++ rest) = .instr i rest) ∧
  (∀ (bytes rest : List Byte) (i : Instr), decode bytes = .instr i rest → bytes = encode i ++ rest)

/-- The decoder rejects a first byte as illegal exactly when it is none of the 57 opcodes of the map, of
which there are 57, so 199 bytes are illegal (30_encoding.md; opcode bytes and forms: the spec's decisions
D3 and D4, assumption 7). -/
def Obligations.IllegalOpcodesAreExactlyTheOthers : Prop :=
  (∀ (op : Byte) (rest : List Byte), decode (op :: rest) = .rejected (.illegalOpcode op) ↔ op ∉ legalOpcodes) ∧
  legalOpcodes.Nodup ∧ legalOpcodes.length = 57

/-- Sample encodings written out from the map decode to the instructions they stand for, one of each family
(30_encoding.md; opcode bytes: the spec's decision D3, assumption 7). -/
def Obligations.SampleEncodingsDecode : Prop :=
  decode [0xA9#8, 0x42#8] = .instr (.ldaImm 0x42#8) [] ∧
  decode [0xBE#8, 0xFF#8, 0x12#8] = .instr (.ldxAbsy 0x12FF#16) [] ∧
  decode [0x31#8, 0x40#8] = .instr (.andIndy 0x40#8) [] ∧
  decode [0x01#8, 0xFE#8] = .instr (.oraIndx 0xFE#8) [] ∧
  decode [0x5E#8, 0xFF#8, 0xFF#8] = .instr (.lsrAbsx 0xFFFF#16) [] ∧
  decode [0x28#8] = .instr .plp [] ∧
  decode [0x6C#8, 0xFF#8, 0x30#8] = .instr (.jmpInd 0x30FF#16) [] ∧
  decode [0xBA#8] = .instr .tsx [] ∧
  decode [0xF8#8] = .instr .sed [] ∧
  decode [0xEA#8] = .instr .nop []

/-! ## The step and its faults -/

/-- A step runs the decoded instruction: in mode Running, when the bytes at pc decode to i and i's last byte
lies at 0xFFFE or below, the step is i's operation from the state with pc moved past i
(40_fetch_dispatch.md; exec as the operation after the fetches is the model's own form, assumption 3). Every
instruction is well formed, so no such premise is needed. -/
def Obligations.StepRunsTheDecodedInstruction : Prop :=
  ∀ (s : State) (i : Instr) (rest : List Byte), s.mode = .running →
    decode (s.readBytes s.pc 3) = .instr i rest → s.pc.toNat + i.length ≤ 0xFFFF →
    step s = exec i { s with pc := s.pc + BitVec.ofNat 16 i.length }

/-- pc through a step: the operation begins with pc = at + length; JMP, JSR and RTS overwrite pc, and after
every other instruction that did not fault it is still at + length (40_fetch_dispatch.md R105; exec as the
operation after the fetches is the model's own form, assumption 3). -/
def Obligations.PcMovesPastTheInstruction : Prop :=
  ∀ (s : State) (i : Instr) (rest : List Byte), s.mode = .running →
    decode (s.readBytes s.pc 3) = .instr i rest → s.pc.toNat + i.length ≤ 0xFFFF →
    ∃ b t, b.pc.toNat = s.pc.toNat + i.length ∧ { b with pc := s.pc } = s ∧ exec i b = .next t ∧ step s = .next t ∧
      (i.mnemonic ∉ [.jmp, .jsr, .rts] → t.pc.toNat = s.pc.toNat + i.length)

/-- A step of a Running machine always answers a next state, and has one of four outcomes: it goes on; it
executed the byte 0xEA and halted; PcOverrun; UnknownOpcode for the byte at pc (40_fetch_dispatch.md; that a
fault is a state is the spec's decision D18, assumption 16, and its being a next state is the model's form,
assumption 1; the fetch at 0xFFFF: D6, assumption 11; the record's fields: D12, assumption 16; 0xEA: D10,
assumption 14). -/
def Obligations.StepOfARunningMachineHasFourOutcomes : Prop :=
  ∀ s : State, s.mode = .running → s.fault = none → ∃ t, step s = .next t ∧
    ((t.mode = .running ∧ t.fault = none) ∨
     (t.mode = .halted ∧ t.fault = none ∧ s.readByte s.pc = 0xEA#8 ∧ s.pc ≠ 0xFFFF#16) ∨
     t = afterOverrun s ∨
     (t.mode = .faulted ∧ t.fault = some (.unknownOpcode (s.readByte s.pc) s.pc)))

/-- UnknownOpcode: a Running machine whose pc is below 0xFFFF and whose byte at pc is none of the 57 opcodes
goes to mode Faulted with that byte and its address on record and pc one further; nothing else changes
(60_exceptions.md; the record's fields are the spec's decision D12 and the mode Faulted its D18, assumption
16; a fault as a next state is the model's form, assumption 1; opcode bytes and forms: D3 and D4, assumption
7; the fetch at 0xFFFF: D6, assumption 11). -/
def Obligations.UnknownOpcodeStopsTheMachine : Prop :=
  ∀ s : State, s.mode = .running → s.pc ≠ 0xFFFF#16 → s.readByte s.pc ∉ legalOpcodes →
    step s = .next { s with
      pc := s.pc + 1, mode := .faulted, fault := some (.unknownOpcode (s.readByte s.pc) s.pc) }

/-- PcOverrun: a Running machine that has any byte of its instruction at 0xFFFF (any byte at all at pc =
0xFFFF, legal or not; a two-byte opcode at 0xFFFE; a three-byte opcode at 0xFFFD or above) goes to mode
Faulted with pc = 0xFFFF and the record PcOverrun(at = 0xFFFF); beyond pc, the mode and the record nothing
changes, so a faulting LSR, push or JSR has stored nothing (60_exceptions.md; the moment of the fault is the
spec's decision D6 and its priority D20, assumption 11; the record's fields are D12 and the mode Faulted
D18, assumption 16; a fault as a next state is the model's form, assumption 1; the opcode bytes of each
length are D3 and D4, assumption 7). -/
def Obligations.PcOverrunStopsTheMachine : Prop :=
  ∀ s : State, s.mode = .running →
    (s.pc.toNat = 0xFFFF → step s = .next (afterOverrun s)) ∧
    (s.pc.toNat = 0xFFFE → s.readByte s.pc ∈ twoByteOpcodes → step s = .next (afterOverrun s)) ∧
    (0xFFFD ≤ s.pc.toNat → s.readByte s.pc ∈ threeByteOpcodes → step s = .next (afterOverrun s))

/-- Faults are precise: after a step that ends in mode Faulted, A, X, Y, S, P and memory are as they were,
and either the record is PcOverrun(at = 0xFFFF) and pc is 0xFFFF, or the record is UnknownOpcode with the
byte at the old pc and that address, pc is one past it, the old pc was not 0xFFFF, and the byte is none of
the 57 opcodes (60_exceptions.md, section 1; the moment of PcOverrun is the spec's decision D6 and its
priority D20, assumption 11; the record's fields are D12 and the mode Faulted D18, assumption 16; a fault as
a next state is the model's form, assumption 1; opcode bytes and forms: D3 and D4, assumption 7). -/
def Obligations.FaultsArePrecise : Prop :=
  ∀ s t : State, step s = .next t → t.mode = .faulted →
    t.A = s.A ∧ t.X = s.X ∧ t.Y = s.Y ∧ t.S = s.S ∧ t.P = s.P ∧ t.mem = s.mem ∧
    ((t.fault = some (.pcOverrun 0xFFFF#16) ∧ t.pc = 0xFFFF#16) ∨
     (t.fault = some (.unknownOpcode (s.readByte s.pc) s.pc) ∧ t.pc = s.pc + 1 ∧ s.pc ≠ 0xFFFF#16 ∧
      s.readByte s.pc ∉ legalOpcodes))

/-- FetchByte and FetchWord: below 0xFFFF they return the byte at pc, or the two bytes from pc with the
first one less significant, and move pc past them; with a byte at 0xFFFF they raise PcOverrun and leave pc
at 0xFFFF (40_fetch_dispatch.md; that the fetch at 0xFFFF itself raises is the spec's decision D6,
assumption 11; the record's fields are D12 and the mode Faulted D18, assumption 16). -/
def Obligations.FetchesReadAtPcAndAdvanceIt : Prop :=
  ∀ s : State,
    (s.pc.toNat < 0xFFFF → s.fetchByte = .got (s.readByte s.pc) { s with pc := s.pc + 1 }) ∧
    (s.pc.toNat = 0xFFFF → s.fetchByte = .raised (afterOverrun s)) ∧
    (s.pc.toNat < 0xFFFE → ∃ w : Addr,
      w.toNat = (s.readByte (s.pc + 1)).toNat * 256 + (s.readByte s.pc).toNat ∧
      s.fetchWord = .got w { s with pc := s.pc + 2 }) ∧
    (0xFFFE ≤ s.pc.toNat → s.fetchWord = .raised (afterOverrun s))

/-- No step is enabled in mode Halted or Faulted, and none of reset, reset with an entry, and run leaves
Faulted (10_state.md; 60_exceptions.md; 70_reset_and_hazards.md; the mode Faulted and its absorption are the
spec's decision D18, assumption 16). The answers stepWhileHalted and stepWhileFaulted are the model's choice
of how to say that no step is enabled (assumption 1), and so are none for a reset without a transition and a
run that ends where it is (assumption 6; HostRun on a Faulted machine is the spec's decision D13). -/
def Obligations.HaltedAndFaultedMachinesTakeNoStep : Prop :=
  (∀ s : State, s.mode = .halted → step s = .fault .stepWhileHalted) ∧
  (∀ s : State, s.mode = .faulted →
    step s = .fault .stepWhileFaulted ∧ s.hostReset = none ∧ (∀ e, s.hostResetEntry e = none) ∧
    ∀ t, HostRunEnds s t ↔ t = s)

/-! ## Invariant -/

/-- Every step keeps the invariant, from every state that has it: memory stays in its canonical form (the
model's own, assumption 2), and the fault record and the mode agree: no record unless Faulted; PcOverrun
only with pc at 0xFFFF; UnknownOpcode only with an illegal byte fetched below 0xFFFF and pc one past it
(10_state.md, section 6; 60_exceptions.md, section 1; the spec's decisions D6, assumption 11; D12 and D18,
assumption 16; the opcode bytes: D3, assumption 7; a fault as a next state: assumption 1). -/
def Obligations.EveryStepKeepsTheInvariant : Prop :=
  ∀ s t : State, MachineInv s → step s = .next t → MachineInv t

/-- The invariant holds of a machine just powered on and of one just reset (10_state.md, section 6;
70_reset_and_hazards.md, section 1; the mode at power-on is the spec's decision D14, assumption 13; the
canonical form of memory is the model's own, assumption 2, and State.reset as power-on and then a reset
without an entry is its choice, assumption 5). -/
def Obligations.InvariantHoldsAtPowerOnAndReset : Prop :=
  MachineInv State.powerOn ∧ MachineInv State.reset

/-- Every host operation keeps the invariant: both resets where they have a transition, byte and word
writes, and a whole run (70_reset_and_hazards.md, section 2; the canonical form of memory is the model's
own, assumption 2; the host operations as functions and a relation beside the step are the model's form,
assumption 6; what the invariant says of faults rests on the spec's decisions D3, assumption 7, D6,
assumption 11, D12 and D18, assumption 16). What the writes store is stated by
HostAccessesReadAndWriteMemoryOnly. -/
def Obligations.HostOperationsKeepTheInvariant : Prop :=
  ∀ s : State, MachineInv s →
    (∀ t, s.hostReset = some t → MachineInv t) ∧ (∀ e t, s.hostResetEntry e = some t → MachineInv t) ∧
    (∀ a v, MachineInv (s.hostWriteByte a v)) ∧ (∀ a v, MachineInv (s.hostWriteWord a v)) ∧
    (∀ t, HostRunEnds s t → MachineInv t)

/-! ## Power-on, reset, run, dump -/

/-- Power-on clears every register and every byte of memory and leaves the machine Halted with no fault; the
model's reset state is power-on and then a reset without an entry, which is the model's choice, assumption 5
(70_reset_and_hazards.md; the mode and P at power-on are the spec's decision D14, assumption 13). -/
def Obligations.PowerOnClearsEverything : Prop :=
  (let s := State.powerOn
   s.A = 0 ∧ s.X = 0 ∧ s.Y = 0 ∧ s.pc = 0 ∧ s.S = 0 ∧ s.P = 0 ∧ s.mode = .halted ∧ s.fault = none ∧
     ∀ a, s.readByte a = 0) ∧
  State.powerOn.hostReset = some State.reset

/-- Reset without an entry address, in mode Halted or Running: pc is the number 0xFFFC, S, A, X, Y and P are 0,
the mode is Running, the record none, and memory is not touched (70_reset_and_hazards.md; that pc is not
loaded from the vector is the spec's decision D9, assumption 13). -/
def Obligations.ResetWithoutEntryStartsAtTheVectorAddress : Prop :=
  ∀ s : State, s.mode ≠ .faulted → ∃ t, s.hostReset = some t ∧
    t.pc = 0xFFFC#16 ∧ t.S = 0 ∧ t.A = 0 ∧ t.X = 0 ∧ t.Y = 0 ∧ t.P = 0 ∧ t.mode = .running ∧ t.fault = none ∧
    t.mem = s.mem

/-- Reset with an entry address e, in mode Halted or Running: the two vector bytes become e, low byte first, pc
is e, every other byte is kept, and the registers, flags and mode are those of a reset
(70_reset_and_hazards.md R282). -/
def Obligations.ResetWithEntryWritesTheVectorAndStartsThere : Prop :=
  ∀ (s : State) (e : Addr), s.mode ≠ .faulted → ∃ t, s.hostResetEntry e = some t ∧
    t.pc = e ∧ (t.readByte 0xFFFC#16).toNat = e.toNat % 256 ∧ (t.readByte 0xFFFD#16).toNat = e.toNat / 256 ∧
    (∀ a, a ≠ 0xFFFC#16 → a ≠ 0xFFFD#16 → t.readByte a = s.readByte a) ∧
    t.S = 0 ∧ t.A = 0 ∧ t.X = 0 ∧ t.Y = 0 ∧ t.P = 0 ∧ t.mode = .running ∧ t.fault = none

/-- A second reset like the first changes nothing, memory included, and a reset without an entry after one with
an entry starts at 0xFFFC while the vector bytes keep the entry (70_reset_and_hazards.md, section 1; on the
memories the machine has, in canonical form, assumption 2). -/
def Obligations.ResetIsIdempotent : Prop :=
  ∀ (s : State) (e : Addr), s.mode ≠ .faulted → s.mem.wf = true →
    (∃ t, s.hostReset = some t ∧ t.hostReset = some t) ∧
    (∃ t, s.hostResetEntry e = some t ∧ t.hostResetEntry e = some t ∧
      ∃ u, t.hostReset = some u ∧ u.pc = 0xFFFC#16 ∧ u.hostReadWord 0xFFFC#16 = e)

/-- A run repeats steps while the mode is Running, and ends exactly in the states reached by steps whose mode
is not Running; no bound is put on the number of steps, and a run has at most one end
(40_fetch_dispatch.md R104). -/
def Obligations.RunEndsExactlyWhereSteppingStops : Prop :=
  (∀ s t : State, RunEnds s t ↔ Reaches s t ∧ t.mode ≠ .running) ∧
  (∀ s t u : State, RunEnds s t → RunEnds s u → t = u)

/-- A host run of a machine that has not faulted ends in Halted or Faulted, and where it ends in Halted the
byte before pc is 0xEA (70_reset_and_hazards.md, section 3; 0xEA: the spec's decision D10, assumption 14; a
run of a Halted or never-reset machine going on at pc: its decision D13, assumption 6). -/
def Obligations.ARunThatHaltsEndsOnTheHaltOpcode : Prop :=
  ∀ s t : State, s.mode ≠ .faulted → HostRunEnds s t →
    (t.mode = .halted ∨ t.mode = .faulted) ∧ (t.mode = .halted → t.readByte (t.pc - 1) = 0xEA#8)

/-- A jump to itself is a run that never ends: with the bytes 4C, low and high byte of pc at pc (at most
0xFFFC), the host's run has no end (40_fetch_dispatch.md; 46_control_flow.md; 0x4C: the spec's decision D3,
assumption 7; a run of a Halted or never-reset machine going on at pc: its decision D13, assumption 6). -/
def Obligations.AJumpToItselfNeverEnds : Prop :=
  ∀ s t : State, s.mode ≠ .faulted → s.pc.toNat ≤ 0xFFFC → s.readByte s.pc = 0x4C#8 →
    (s.readByte (s.pc + 1)).toNat = s.pc.toNat % 256 → (s.readByte (s.pc + 2)).toNat = s.pc.toNat / 256 →
    ¬HostRunEnds s t

/-- The dump shows pc, 0x0100 + S, A, X, Y, the rendering of P and the byte at pc, and changes nothing
(70_reset_and_hazards.md R288). -/
def Obligations.DumpShowsTheSevenItems : Prop :=
  ∀ s : State,
    s.dump.pc = s.pc ∧ s.dump.sp16.toNat = 0x0100 + s.S.toNat ∧ s.dump.A = s.A ∧ s.dump.X = s.X ∧ s.dump.Y = s.Y ∧
    s.dump.flags = String.ofList ([7, 6, 5, 4, 3, 2, 1, 0].map fun n => if s.P.getLsbD n then '1' else '0') ∧
    s.dump.byteAtPc = s.readByte s.pc

/-- The host reads and writes bytes and words of memory in every mode, Faulted included: a read answers what
memory holds, a write stores its one or two bytes, low byte first, and no other byte and no register, flag,
mode or record changes (70_reset_and_hazards.md, section 2; the word at 0xFFFF is the spec's decision D7,
and the accesses as functions beside the step are the model's form, assumption 6). -/
def Obligations.HostAccessesReadAndWriteMemoryOnly : Prop :=
  ∀ (s : State) (a b w : Addr) (v : Byte), b.toNat = (a.toNat + 1) % 65536 →
    s.hostReadByte a = s.readByte a ∧
    (s.hostReadWord a).toNat = (s.readByte b).toNat * 256 + (s.readByte a).toNat ∧
    (s.hostWriteByte a v).readByte a = v ∧
    (∀ j, j ≠ a → (s.hostWriteByte a v).readByte j = s.readByte j) ∧
    { s.hostWriteByte a v with mem := s.mem } = s ∧
    ((s.hostWriteWord a w).readByte a).toNat = w.toNat % 256 ∧
    ((s.hostWriteWord a w).readByte b).toNat = w.toNat / 256 ∧
    (∀ j, j ≠ a → j ≠ b → (s.hostWriteWord a w).readByte j = s.readByte j) ∧
    { s.hostWriteWord a w with mem := s.mem } = s
end

