-- ==== Sys2Proof/Laws/Decode.lean ====
section
/-! SUPPORT. The opcode map as facts: the opcode of every instruction has an entry that makes the
instruction, and every entry of the table makes instructions with the opcode it stands under. -/

namespace Sys2Proof

/-- The entry under an instruction's opcode, applied to its operand, makes the instruction. -/
theorem opcodeEntry_opcodeOf (i : Instr) :
    (operandBytes i = [] ∧ opcodeEntry (opcodeOf i) = some (.implied i)) ∨
    (∃ b make, operandBytes i = [b] ∧ opcodeEntry (opcodeOf i) = some (.byteOperand make) ∧ make b = i) ∨
    (∃ w make, operandBytes i = [lowByte w, highByte w] ∧
      opcodeEntry (opcodeOf i) = some (.wordOperand make) ∧ make w = i) := by
  cases i <;>
    first
    | exact .inl ⟨rfl, rfl⟩
    | exact .inr (.inl ⟨_, _, rfl, rfl, rfl⟩)
    | exact .inr (.inr ⟨_, _, rfl, rfl, rfl⟩)

/-- An instruction is one byte longer than its operand. -/
theorem length_eq (i : Instr) : i.length = (operandBytes i).length + 1 := by cases i <;> rfl

theorem one_le_length (i : Instr) : 1 ≤ i.length := by rw [length_eq]; omega

theorem length_le_three (i : Instr) : i.length ≤ 3 := by
  rw [Instr.length]
  cases i.format <;> decide

/-- What a table entry stands for: under opcode `op`, an instruction whose encoding begins with `op` and
goes on with the operand bytes. -/
def EntrySound (op : Byte) : OpcodeEntry → Prop
  | .implied i => encode i = [op]
  | .byteOperand make => ∀ b, encode (make b) = [op, b]
  | .wordOperand make => ∀ w, encode (make w) = [op, lowByte w, highByte w]

/-- Every row of the table is sound. -/
theorem entrySound_of_opcodeEntry {op : Byte} {e : OpcodeEntry} (h : opcodeEntry op = some e) : EntrySound op e := by
  unfold opcodeEntry at h
  split at h <;>
    first
    | (cases h; done)
    | (cases h; rfl)
    | (cases h; intro _; rfl)

end Sys2Proof
end

