-- ==== Sys2Proof/Laws/State.lean ====
section
/-! SUPPORT. One lemma per field per named update of the state, so that no proof unfolds an update. -/

namespace Sys2Proof.Machine

/-! ## writeByte -/

@[simp] theorem State.writeByte_A (s : State) (a : Addr) (v : Byte) : (s.writeByte a v).A = s.A := rfl
@[simp] theorem State.writeByte_X (s : State) (a : Addr) (v : Byte) : (s.writeByte a v).X = s.X := rfl
@[simp] theorem State.writeByte_Y (s : State) (a : Addr) (v : Byte) : (s.writeByte a v).Y = s.Y := rfl
@[simp] theorem State.writeByte_pc (s : State) (a : Addr) (v : Byte) : (s.writeByte a v).pc = s.pc := rfl
@[simp] theorem State.writeByte_S (s : State) (a : Addr) (v : Byte) : (s.writeByte a v).S = s.S := rfl
@[simp] theorem State.writeByte_P (s : State) (a : Addr) (v : Byte) : (s.writeByte a v).P = s.P := rfl
@[simp] theorem State.writeByte_mode (s : State) (a : Addr) (v : Byte) : (s.writeByte a v).mode = s.mode := rfl
@[simp] theorem State.writeByte_fault (s : State) (a : Addr) (v : Byte) : (s.writeByte a v).fault = s.fault := rfl
@[simp] theorem State.writeByte_mem (s : State) (a : Addr) (v : Byte) : (s.writeByte a v).mem = s.mem.store a.toNat v := rfl

/-! ## setP -/

@[simp] theorem State.setP_A (s : State) (p : Byte) : (s.setP p).A = s.A := rfl
@[simp] theorem State.setP_X (s : State) (p : Byte) : (s.setP p).X = s.X := rfl
@[simp] theorem State.setP_Y (s : State) (p : Byte) : (s.setP p).Y = s.Y := rfl
@[simp] theorem State.setP_pc (s : State) (p : Byte) : (s.setP p).pc = s.pc := rfl
@[simp] theorem State.setP_S (s : State) (p : Byte) : (s.setP p).S = s.S := rfl
@[simp] theorem State.setP_P (s : State) (p : Byte) : (s.setP p).P = p := rfl
@[simp] theorem State.setP_mode (s : State) (p : Byte) : (s.setP p).mode = s.mode := rfl
@[simp] theorem State.setP_fault (s : State) (p : Byte) : (s.setP p).fault = s.fault := rfl
@[simp] theorem State.setP_mem (s : State) (p : Byte) : (s.setP p).mem = s.mem := rfl

/-! ## setFlag -/

@[simp] theorem State.setFlag_A (s : State) (f : Flag) (b : Bool) : (s.setFlag f b).A = s.A := rfl
@[simp] theorem State.setFlag_X (s : State) (f : Flag) (b : Bool) : (s.setFlag f b).X = s.X := rfl
@[simp] theorem State.setFlag_Y (s : State) (f : Flag) (b : Bool) : (s.setFlag f b).Y = s.Y := rfl
@[simp] theorem State.setFlag_pc (s : State) (f : Flag) (b : Bool) : (s.setFlag f b).pc = s.pc := rfl
@[simp] theorem State.setFlag_S (s : State) (f : Flag) (b : Bool) : (s.setFlag f b).S = s.S := rfl
@[simp] theorem State.setFlag_P (s : State) (f : Flag) (b : Bool) : (s.setFlag f b).P = Machine.setFlag f b s.P := rfl
@[simp] theorem State.setFlag_mode (s : State) (f : Flag) (b : Bool) : (s.setFlag f b).mode = s.mode := rfl
@[simp] theorem State.setFlag_fault (s : State) (f : Flag) (b : Bool) : (s.setFlag f b).fault = s.fault := rfl
@[simp] theorem State.setFlag_mem (s : State) (f : Flag) (b : Bool) : (s.setFlag f b).mem = s.mem := rfl

/-! ## push -/

@[simp] theorem State.push_A (s : State) (v : Byte) : (s.push v).A = s.A := rfl
@[simp] theorem State.push_X (s : State) (v : Byte) : (s.push v).X = s.X := rfl
@[simp] theorem State.push_Y (s : State) (v : Byte) : (s.push v).Y = s.Y := rfl
@[simp] theorem State.push_pc (s : State) (v : Byte) : (s.push v).pc = s.pc := rfl
@[simp] theorem State.push_S (s : State) (v : Byte) : (s.push v).S = s.S - 1 := rfl
@[simp] theorem State.push_P (s : State) (v : Byte) : (s.push v).P = s.P := rfl
@[simp] theorem State.push_mode (s : State) (v : Byte) : (s.push v).mode = s.mode := rfl
@[simp] theorem State.push_fault (s : State) (v : Byte) : (s.push v).fault = s.fault := rfl
@[simp] theorem State.push_mem (s : State) (v : Byte) : (s.push v).mem = s.mem.store (stackCell s.S).toNat v := rfl

/-! ## pulled -/

@[simp] theorem State.pulled_A (s : State) : (s.pulled).A = s.A := rfl
@[simp] theorem State.pulled_X (s : State) : (s.pulled).X = s.X := rfl
@[simp] theorem State.pulled_Y (s : State) : (s.pulled).Y = s.Y := rfl
@[simp] theorem State.pulled_pc (s : State) : (s.pulled).pc = s.pc := rfl
@[simp] theorem State.pulled_S (s : State) : (s.pulled).S = s.S + 1 := rfl
@[simp] theorem State.pulled_P (s : State) : (s.pulled).P = s.P := rfl
@[simp] theorem State.pulled_mode (s : State) : (s.pulled).mode = s.mode := rfl
@[simp] theorem State.pulled_fault (s : State) : (s.pulled).fault = s.fault := rfl
@[simp] theorem State.pulled_mem (s : State) : (s.pulled).mem = s.mem := rfl

/-! ## raise -/

@[simp] theorem State.raise_A (s : State) (r : FaultRecord) : (s.raise r).A = s.A := rfl
@[simp] theorem State.raise_X (s : State) (r : FaultRecord) : (s.raise r).X = s.X := rfl
@[simp] theorem State.raise_Y (s : State) (r : FaultRecord) : (s.raise r).Y = s.Y := rfl
@[simp] theorem State.raise_pc (s : State) (r : FaultRecord) : (s.raise r).pc = s.pc := rfl
@[simp] theorem State.raise_S (s : State) (r : FaultRecord) : (s.raise r).S = s.S := rfl
@[simp] theorem State.raise_P (s : State) (r : FaultRecord) : (s.raise r).P = s.P := rfl
@[simp] theorem State.raise_mode (s : State) (r : FaultRecord) : (s.raise r).mode = .faulted := rfl
@[simp] theorem State.raise_fault (s : State) (r : FaultRecord) : (s.raise r).fault = some r := rfl
@[simp] theorem State.raise_mem (s : State) (r : FaultRecord) : (s.raise r).mem = s.mem := rfl

/-! ## writeWord -/

@[simp] theorem State.writeWord_A (s : State) (a v : Addr) : (s.writeWord a v).A = s.A := rfl
@[simp] theorem State.writeWord_X (s : State) (a v : Addr) : (s.writeWord a v).X = s.X := rfl
@[simp] theorem State.writeWord_Y (s : State) (a v : Addr) : (s.writeWord a v).Y = s.Y := rfl
@[simp] theorem State.writeWord_pc (s : State) (a v : Addr) : (s.writeWord a v).pc = s.pc := rfl
@[simp] theorem State.writeWord_S (s : State) (a v : Addr) : (s.writeWord a v).S = s.S := rfl
@[simp] theorem State.writeWord_P (s : State) (a v : Addr) : (s.writeWord a v).P = s.P := rfl
@[simp] theorem State.writeWord_mode (s : State) (a v : Addr) : (s.writeWord a v).mode = s.mode := rfl
@[simp] theorem State.writeWord_fault (s : State) (a v : Addr) : (s.writeWord a v).fault = s.fault := rfl
@[simp] theorem State.writeWord_mem (s : State) (a v : Addr) : (s.writeWord a v).mem = (s.mem.store a.toNat (lowByte v)).store (a + 1).toNat (highByte v) := rfl

/-! ## setReg and load -/

@[simp] theorem State.setReg_A (s : State) (r : Reg) (v : Byte) : (s.setReg r v).A = if r = .A then v else s.A := by
  cases r <;> rfl
@[simp] theorem State.setReg_X (s : State) (r : Reg) (v : Byte) : (s.setReg r v).X = if r = .X then v else s.X := by
  cases r <;> rfl
@[simp] theorem State.setReg_Y (s : State) (r : Reg) (v : Byte) : (s.setReg r v).Y = if r = .Y then v else s.Y := by
  cases r <;> rfl
@[simp] theorem State.setReg_pc (s : State) (r : Reg) (v : Byte) : (s.setReg r v).pc = s.pc := by
  cases r <;> rfl
@[simp] theorem State.setReg_S (s : State) (r : Reg) (v : Byte) : (s.setReg r v).S = s.S := by
  cases r <;> rfl
@[simp] theorem State.setReg_P (s : State) (r : Reg) (v : Byte) : (s.setReg r v).P = s.P := by
  cases r <;> rfl
@[simp] theorem State.setReg_mode (s : State) (r : Reg) (v : Byte) : (s.setReg r v).mode = s.mode := by
  cases r <;> rfl
@[simp] theorem State.setReg_fault (s : State) (r : Reg) (v : Byte) : (s.setReg r v).fault = s.fault := by
  cases r <;> rfl
@[simp] theorem State.setReg_mem (s : State) (r : Reg) (v : Byte) : (s.setReg r v).mem = s.mem := by
  cases r <;> rfl
@[simp] theorem State.load_A (s : State) (r : Reg) (v : Byte) : (s.load r v).A = if r = .A then v else s.A := by
  simp [State.load]
@[simp] theorem State.load_X (s : State) (r : Reg) (v : Byte) : (s.load r v).X = if r = .X then v else s.X := by
  simp [State.load]
@[simp] theorem State.load_Y (s : State) (r : Reg) (v : Byte) : (s.load r v).Y = if r = .Y then v else s.Y := by
  simp [State.load]
@[simp] theorem State.load_pc (s : State) (r : Reg) (v : Byte) : (s.load r v).pc = s.pc := by
  simp [State.load]
@[simp] theorem State.load_S (s : State) (r : Reg) (v : Byte) : (s.load r v).S = s.S := by
  simp [State.load]
@[simp] theorem State.load_P (s : State) (r : Reg) (v : Byte) : (s.load r v).P = setZN v s.P := rfl
@[simp] theorem State.load_mode (s : State) (r : Reg) (v : Byte) : (s.load r v).mode = s.mode := by
  simp [State.load]
@[simp] theorem State.load_fault (s : State) (r : Reg) (v : Byte) : (s.load r v).fault = s.fault := by
  simp [State.load]
@[simp] theorem State.load_mem (s : State) (r : Reg) (v : Byte) : (s.load r v).mem = s.mem := by
  simp [State.load]

theorem State.load_regA (s : State) (v : Byte) :
    s.load .A v = { s with A := v, P := setZN v s.P } := rfl
theorem State.load_regX (s : State) (v : Byte) :
    s.load .X v = { s with X := v, P := setZN v s.P } := rfl
theorem State.load_regY (s : State) (v : Byte) :
    s.load .Y v = { s with Y := v, P := setZN v s.P } := rfl

/-! ## readByte through the updates -/

theorem State.readByte_of_mem_eq {s t : State} (h : t.mem = s.mem) (a : Addr) : t.readByte a = s.readByte a := by
  rw [State.readByte, State.readByte, h]
@[simp] theorem State.readByte_setP (s : State) (p : Byte) (a : Addr) :
    (s.setP p).readByte a = s.readByte a := State.readByte_of_mem_eq (by simp) a
@[simp] theorem State.readByte_setFlag (s : State) (f : Flag) (b : Bool) (a : Addr) :
    (s.setFlag f b).readByte a = s.readByte a := State.readByte_of_mem_eq (by simp) a
@[simp] theorem State.readByte_pulled (s : State) (a : Addr) :
    (s.pulled).readByte a = s.readByte a := State.readByte_of_mem_eq (by simp) a
@[simp] theorem State.readByte_raise (s : State) (r : FaultRecord) (a : Addr) :
    (s.raise r).readByte a = s.readByte a := State.readByte_of_mem_eq (by simp) a
@[simp] theorem State.readByte_load (s : State) (r : Reg) (v : Byte) (a : Addr) :
    (s.load r v).readByte a = s.readByte a := State.readByte_of_mem_eq (by simp) a
@[simp] theorem State.readByte_setReg (s : State) (r : Reg) (v : Byte) (a : Addr) :
    (s.setReg r v).readByte a = s.readByte a := State.readByte_of_mem_eq (by simp) a

end Sys2Proof.Machine
end

