-- ==== Sys2Proof/Laws/Memory.lean ====
section
/-! SUPPORT. The memory list: what a load after a store gives, that every operation keeps the canonical
form, and that canonical memories which read alike are equal. -/

namespace Sys2Proof.Machine

/-! ## Load after store -/

theorem Memory.lookup_erase (m : Memory) (k j : Nat) :
    (m.erase k).lookup j = if j = k then Config.powerOnByte else m.lookup j := by
  induction m with
  | nil => simp [Memory.erase, Memory.lookup]
  | cons c m ih =>
    obtain ⟨a, b⟩ := c
    by_cases hak : a = k
    · subst hak
      rw [Memory.erase, if_pos rfl, ih, Memory.lookup]
      by_cases hj : j = a
      · simp [hj]
      · simp [hj, Ne.symm hj]
    · rw [Memory.erase, if_neg hak, Memory.lookup, Memory.lookup, ih]
      by_cases haj : a = j
      · subst haj; simp [hak]
      · simp [haj]

theorem Memory.lookup_insert {m : Memory} {k : Nat} (v : Byte) (h : m.lookup k = Config.powerOnByte)
    (hk : ∀ b, (k, b) ∉ m) (j : Nat) : (m.insert k v).lookup j = if j = k then v else m.lookup j := by
  induction m with
  | nil =>
    by_cases hj : j = k
    · simp [Memory.insert, Memory.lookup, hj]
    · simp [Memory.insert, Memory.lookup, hj, Ne.symm hj]
  | cons c m ih =>
    obtain ⟨a, b⟩ := c
    have hak : a ≠ k := fun e => hk b (by simp [e])
    have hm : ∀ b, (k, b) ∉ m := fun b hb => hk b (List.mem_cons_of_mem _ hb)
    rw [Memory.lookup, if_neg hak] at h
    rw [Memory.insert]
    split
    · by_cases hj : j = k
      · simp [Memory.lookup, hj]
      · simp [Memory.lookup, hj, Ne.symm hj]
    · rw [Memory.lookup, Memory.lookup, ih h hm]
      by_cases haj : a = j
      · subst haj; simp [hak]
      · simp [haj]

theorem Memory.not_mem_erase (m : Memory) (k : Nat) (b : Byte) : (k, b) ∉ m.erase k := by
  induction m with
  | nil => simp [Memory.erase]
  | cons c m ih =>
    obtain ⟨a, b'⟩ := c
    rw [Memory.erase]
    split
    · exact ih
    · rename_i hak
      rw [List.mem_cons, Prod.mk.injEq]
      rintro (⟨e, -⟩ | hb)
      · exact hak e.symm
      · exact ih hb

/-- The byte at any address after a store. -/
theorem Memory.lookup_store (m : Memory) (k : Nat) (v : Byte) (j : Nat) :
    (m.store k v).lookup j = if j = k then v else m.lookup j := by
  rw [Memory.store]
  split
  · rename_i hv
    rw [Memory.lookup_erase, hv]
  · rw [Memory.lookup_insert v (by rw [Memory.lookup_erase, if_pos rfl]) (Memory.not_mem_erase m k),
      Memory.lookup_erase]
    by_cases hj : j = k <;> simp [hj]

/-! ## The canonical form -/

theorem Memory.risingFrom_mono {lo lo' : Nat} (hlo : lo' ≤ lo) {m : Memory} (h : Memory.risingFrom lo m = true) :
    Memory.risingFrom lo' m = true := by
  cases m with
  | nil => rfl
  | cons c m =>
    simp only [Memory.risingFrom, Bool.and_eq_true, decide_eq_true_eq] at h ⊢
    exact ⟨⟨⟨hlo.trans h.1.1.1, h.1.1.2⟩, h.1.2⟩, h.2⟩

theorem Memory.risingFrom_erase {lo : Nat} {m : Memory} (k : Nat) (h : Memory.risingFrom lo m = true) :
    Memory.risingFrom lo (m.erase k) = true := by
  induction m generalizing lo with
  | nil => rfl
  | cons c m ih =>
    obtain ⟨a, b⟩ := c
    simp only [Memory.risingFrom, Bool.and_eq_true, decide_eq_true_eq] at h
    rw [Memory.erase]
    split
    · exact ih (Memory.risingFrom_mono (by omega) h.2)
    · simp only [Memory.risingFrom, Bool.and_eq_true, decide_eq_true_eq]
      exact ⟨h.1, ih h.2⟩

theorem Memory.risingFrom_insert {lo : Nat} {m : Memory} {k : Nat} {v : Byte} (hlo : lo ≤ k) (hk : k < 65536)
    (hv : v ≠ Config.powerOnByte) (hm : ∀ b, (k, b) ∉ m) (h : Memory.risingFrom lo m = true) :
    Memory.risingFrom lo (m.insert k v) = true := by
  induction m generalizing lo with
  | nil => simp [Memory.insert, Memory.risingFrom, hlo, hk, hv]
  | cons c m ih =>
    obtain ⟨a, b⟩ := c
    have hak : a ≠ k := fun e => hm b (by simp [e])
    simp only [Memory.risingFrom, Bool.and_eq_true, decide_eq_true_eq] at h
    rw [Memory.insert]
    split
    · simp only [Memory.risingFrom, Bool.and_eq_true, decide_eq_true_eq]
      exact ⟨⟨⟨hlo, hk⟩, hv⟩, ⟨⟨by omega, h.1.1.2⟩, h.1.2⟩, h.2⟩
    · simp only [Memory.risingFrom, Bool.and_eq_true, decide_eq_true_eq]
      exact ⟨h.1, ih (by omega) (fun b hb => hm b (List.mem_cons_of_mem _ hb)) h.2⟩

/-- A store at an address of the space keeps the canonical form. -/
theorem Memory.wf_store {m : Memory} {k : Nat} (hk : k < 65536) (v : Byte) (h : m.wf = true) :
    (m.store k v).wf = true := by
  rw [Memory.store]
  split
  · exact Memory.risingFrom_erase k h
  · rename_i hv
    exact Memory.risingFrom_insert (Nat.zero_le k) hk hv (Memory.not_mem_erase m k) (Memory.risingFrom_erase k h)

@[simp] theorem Memory.wf_nil : Memory.wf [] = true := rfl

theorem State.wf_writeByte {s : State} (a : Addr) (v : Byte) (h : s.mem.wf = true) :
    (s.writeByte a v).mem.wf = true := Memory.wf_store a.isLt v h

theorem State.wf_push {s : State} (v : Byte) (h : s.mem.wf = true) : (s.push v).mem.wf = true :=
  Memory.wf_store (stackCell s.S).isLt v h

theorem State.wf_writeWord {s : State} (a v : Addr) (h : s.mem.wf = true) : (s.writeWord a v).mem.wf = true :=
  State.wf_writeByte _ _ (State.wf_writeByte a _ h)

theorem State.wf_writeBytes {s : State} (a : Addr) (bs : List Byte) (h : s.mem.wf = true) :
    (s.writeBytes a bs).mem.wf = true := by
  induction bs generalizing s a with
  | nil => exact h
  | cons b bs ih => exact ih (a + 1) (State.wf_writeByte a b h)

/-- An address below the first one that may be listed reads as the power-on byte. -/
theorem Memory.lookup_of_lt {lo k : Nat} {m : Memory} (hk : k < lo) (h : Memory.risingFrom lo m = true) :
    m.lookup k = Config.powerOnByte := by
  induction m generalizing lo with
  | nil => rfl
  | cons c m ih =>
    obtain ⟨a, b⟩ := c
    simp only [Memory.risingFrom, Bool.and_eq_true, decide_eq_true_eq] at h
    rw [Memory.lookup, if_neg (by omega)]
    exact ih (by omega) h.2

/-! ## Reads of the state after its writes -/

theorem Addr.toNat_eq_iff (a b : Addr) : a.toNat = b.toNat ↔ a = b :=
  ⟨fun h => BitVec.eq_of_toNat_eq h, fun h => congrArg _ h⟩

/-- Any byte after a byte write (20_memory.md R52). -/
theorem State.readByte_writeByte (s : State) (a : Addr) (v : Byte) (j : Addr) :
    (s.writeByte a v).readByte j = if j = a then v else s.readByte j := by
  simp only [State.readByte, State.writeByte_mem, Memory.lookup_store, Addr.toNat_eq_iff]

/-- Any byte after a push (45_stack.md R210). -/
theorem State.readByte_push (s : State) (v : Byte) (j : Addr) :
    (s.push v).readByte j = if j = stackCell s.S then v else s.readByte j := by
  simp only [State.readByte, State.push_mem, Memory.lookup_store, Addr.toNat_eq_iff]

/-- Any byte after a word write (20_memory.md R54). -/
theorem State.readByte_writeWord (s : State) (a v : Addr) (j : Addr) :
    (s.writeWord a v).readByte j =
      if j = a + 1 then highByte v else if j = a then lowByte v else s.readByte j := by
  rw [State.writeWord, State.readByte_writeByte, State.readByte_writeByte]

/-- Two stack cells are the same exactly when the offsets are (10_state.md R25). -/
theorem stackCell_inj (x y : Byte) : stackCell x = stackCell y ↔ x = y := by
  rw [stackCell, stackCell, joinBytes_inj]
  simp

end Sys2Proof.Machine
end

