-- ==== Sys2Proof/Laws/Fetch.lean ====
section
/-! SUPPORT. The fetches: everything FetchByte, FetchWord and the fetch of an instruction can do, and that
the instruction fetched is the one the decoder reads from the bytes at pc. -/

namespace Sys2Proof.Machine

/-- The state after `n` bytes were fetched. -/
def State.advance (s : State) (n : Nat) : State := { s with pc := s.pc + BitVec.ofNat 16 n }

@[simp] theorem State.readByte_advance (s : State) (n : Nat) (a : Addr) : (s.advance n).readByte a = s.readByte a := rfl

theorem State.advance_pc_toNat {s : State} {n : Nat} (h : s.pc.toNat + n ≤ 0xFFFF) :
    (s.advance n).pc.toNat = s.pc.toNat + n := by
  simp only [State.advance, BitVec.toNat_add, BitVec.toNat_ofNat]; omega

theorem State.advance_advance (s : State) (m n : Nat) : (s.advance m).advance n = s.advance (m + n) := by
  simp only [State.advance, BitVec.add_assoc, BitVec.ofNat_add]

/-- The state after PcOverrun was raised by the fetch of an instruction at s: pc is 0xFFFF. -/
def State.overrun (s : State) : State :=
  { s with pc := Config.topAddress, mode := .faulted, fault := some (.pcOverrun Config.topAddress) }

@[simp] theorem State.overrun_advance (s : State) (n : Nat) : (s.advance n).overrun = s.overrun := rfl

theorem State.pc_eq_top_iff (s : State) : s.pc = Config.topAddress ↔ s.pc.toNat = 0xFFFF :=
  (Addr.toNat_eq_iff s.pc Config.topAddress).symm

/-- FetchByte at 0xFFFF raises PcOverrun and changes nothing but mode and record. -/
theorem State.fetchByte_top {s : State} (h : s.pc.toNat = 0xFFFF) : s.fetchByte = .raised s.overrun := by
  have hp := s.pc_eq_top_iff.mpr h
  rw [State.fetchByte, if_pos hp]
  cases s; cases hp; rfl

/-- FetchByte below 0xFFFF returns the byte at pc and advances pc by one. -/
theorem State.fetchByte_got {s : State} (h : s.pc.toNat < 0xFFFF) :
    s.fetchByte = .got (s.readByte s.pc) (s.advance 1) := by
  rw [State.fetchByte, if_neg (fun e => by rw [State.pc_eq_top_iff] at e; omega)]
  rfl

/-- FetchWord with either byte at 0xFFFF raises PcOverrun, with pc at 0xFFFF. -/
theorem State.fetchWord_overrun {s : State} (h : 0xFFFF < s.pc.toNat + 2) : s.fetchWord = .raised s.overrun := by
  have hlt := s.pc.isLt
  by_cases h0 : s.pc.toNat = 0xFFFF
  · rw [State.fetchWord, State.fetchByte_top h0]
  · rw [State.fetchWord, State.fetchByte_got (by omega)]
    have h1 : (s.advance 1).pc.toNat = 0xFFFF := by rw [State.advance_pc_toNat] <;> omega
    simp only [State.fetchByte_top h1, State.overrun_advance]

/-- FetchWord below reads two bytes, the low one first. -/
theorem State.fetchWord_got {s : State} (h : s.pc.toNat + 2 ≤ 0xFFFF) :
    s.fetchWord = .got (joinBytes (s.readByte (s.pc + 1)) (s.readByte s.pc)) (s.advance 2) := by
  have h1 : (s.advance 1).pc.toNat < 0xFFFF := by rw [State.advance_pc_toNat] <;> omega
  rw [State.fetchWord, State.fetchByte_got (by omega)]
  simp only [State.fetchByte_got h1, State.advance_advance]
  rfl

/-- Everything the fetch of an instruction can do. -/
inductive FetchCase (s : State) : Fetched Instr → Prop where
  /-- the opcode byte lies at 0xFFFF -/
  | opcodeOverrun (h : s.pc.toNat = 0xFFFF) : FetchCase s (.raised s.overrun)
  /-- the opcode byte has no entry -/
  | unknown (h : s.pc.toNat < 0xFFFF) (hop : opcodeEntry (s.readByte s.pc) = none) :
      FetchCase s (.raised ((s.advance 1).raise (.unknownOpcode (s.readByte s.pc) s.pc)))
  /-- an operand byte of the instruction lies at 0xFFFF -/
  | operandOverrun (e : OpcodeEntry) (h : s.pc.toNat < 0xFFFF) (hop : opcodeEntry (s.readByte s.pc) = some e)
      (hlong : 0xFFFF < s.pc.toNat + 1 + e.operandCount) : FetchCase s (.raised s.overrun)
  /-- the instruction whose encoding stands at pc -/
  | got (i : Instr) (hfit : s.pc.toNat + i.length ≤ 0xFFFF) (henc : encode i = s.readBytes s.pc i.length) :
      FetchCase s (.got i (s.advance i.length))

/-- The fetch of an instruction does one of those things. -/
theorem State.fetchInstr_cases (s : State) : FetchCase s s.fetchInstr := by
  have hlt := s.pc.isLt
  by_cases h0 : s.pc.toNat = 0xFFFF
  · rw [State.fetchInstr, State.fetchByte_top h0]; exact .opcodeOverrun h0
  have h1 : s.pc.toNat < 0xFFFF := by omega
  have hp1 : (s.advance 1).pc.toNat = s.pc.toNat + 1 := State.advance_pc_toNat (by omega)
  rw [State.fetchInstr, State.fetchByte_got h1]
  simp only
  cases hop : opcodeEntry (s.readByte s.pc) with
  | none => exact .unknown h1 hop
  | some e =>
    have hs := entrySound_of_opcodeEntry hop
    cases e with
    | implied i =>
      have henc : encode i = [s.readByte s.pc] := hs
      have hl : i.length = 1 := by rw [length_eq, ← List.length_cons (a := opcodeOf i), ← encode, henc]; rfl
      have := FetchCase.got (s := s) i (by omega) (by rw [henc, hl]; rfl)
      rwa [hl] at this
    | byteOperand make =>
      simp only
      by_cases h2 : s.pc.toNat + 1 = 0xFFFF
      · rw [State.fetchByte_top (by omega)]
        exact .operandOverrun _ h1 hop (by rw [OpcodeEntry.operandCount]; omega)
      · have henc := hs (s.readByte (s.pc + 1))
        have hl : (make (s.readByte (s.pc + 1))).length = 2 := by
          rw [length_eq, ← List.length_cons (a := opcodeOf _), ← encode, henc]; rfl
        rw [State.fetchByte_got (by omega), State.advance_advance]
        have := FetchCase.got (s := s) (make (s.readByte (s.pc + 1))) (by omega) (by rw [henc, hl]; rfl)
        rwa [hl] at this
    | wordOperand make =>
      simp only
      by_cases h2 : s.pc.toNat + 3 ≤ 0xFFFF
      · have henc := hs (joinBytes (s.readByte (s.pc + 1 + 1)) (s.readByte (s.pc + 1)))
        rw [lowByte_joinBytes, highByte_joinBytes] at henc
        have hl : (make (joinBytes (s.readByte (s.pc + 1 + 1)) (s.readByte (s.pc + 1)))).length = 3 := by
          rw [length_eq, ← List.length_cons (a := opcodeOf _), ← encode, henc]; rfl
        rw [State.fetchWord_got (by omega), State.advance_advance]
        have := FetchCase.got (s := s) (make (joinBytes (s.readByte (s.pc + 1 + 1)) (s.readByte (s.pc + 1))))
          (by omega) (by rw [henc, hl]; rfl)
        rwa [hl] at this
      · rw [State.fetchWord_overrun (by omega)]
        exact .operandOverrun _ h1 hop (by rw [OpcodeEntry.operandCount]; omega)

end Sys2Proof.Machine
end

