-- ==== Sys2Proof/Laws/Flags.lean ====
section
/-! SUPPORT. The status byte bit by bit: what each flag computation writes and what it leaves. -/

namespace Sys2Proof.Machine

/-- Every bit after one bit is written (10_state.md R36). -/
theorem getLsbD_setBit (p : Byte) {n : Nat} (hn : n < 8) (b : Bool) (k : Nat) :
    (setBit p n b).getLsbD k = if k = n then b else p.getLsbD k := by
  by_cases hk : k < 8
  · cases b <;> by_cases h : k = n <;> simp [setBit, hk, h, hn] <;> omega
  · have hkn : k ≠ n := by omega
    rw [if_neg hkn, BitVec.getLsbD_of_ge _ k (by omega), BitVec.getLsbD_of_ge p k (by omega)]

theorem Flag.bit_lt (f : Flag) : f.bit < 8 := by cases f <;> decide

/-- Every bit after one flag is written. -/
theorem getLsbD_setFlag (f : Flag) (b : Bool) (p : Byte) (k : Nat) :
    (Machine.setFlag f b p).getLsbD k = if k = f.bit then b else p.getLsbD k :=
  getLsbD_setBit p f.bit_lt b k

/-- Every bit after `SetZN(v)` (10_state.md R35). -/
theorem getLsbD_setZN (v p : Byte) (k : Nat) :
    (setZN v p).getLsbD k = if k = 7 then v.getLsbD 7 else if k = 1 then v == 0x00#8 else p.getLsbD k := by
  rw [setZN, getLsbD_setFlag, getLsbD_setFlag]; rfl

/-- Every bit after the flags of a right shift are written (44_shift.md R200). -/
theorem getLsbD_shrFlags (v p : Byte) (k : Nat) :
    (shrFlags v p).getLsbD k =
      if k = 1 then shrResult v == 0x00#8 else if k = 7 then false
      else if k = 0 then v.getLsbD 0 else p.getLsbD k := by
  rw [shrFlags, getLsbD_setFlag, getLsbD_setFlag, getLsbD_setFlag]; rfl

theorem shrResult_toNat (v : Byte) : (shrResult v).toNat = v.toNat / 2 := by
  simp [shrResult, Nat.shiftRight_eq_div_pow]

end Sys2Proof.Machine
end

