-- ==== Sys2Proof/Laws/Exec.lean ====
section
/-! SUPPORT. Everything an instruction's operation can do, said once, and everything a step can do. -/

namespace Sys2Proof.Machine

/-- The general register an instruction loads and sets Z and N from. -/
def Instr.loads (i : Instr) : Option Reg :=
  match i.mnemonic with
  | .lda | .and | .ora | .txa | .tya => some .A
  | .ldx | .tax | .tsx => some .X
  | .ldy | .tay => some .Y
  | _ => none

/-- Everything the operation of an instruction can do to a state. -/
inductive ExecCase (s : State) : Instr → State → Prop where
  | load (i : Instr) (r : Reg) (v : Byte) (hr : Instr.loads i = some r) : ExecCase s i (s.load r v)
  | shrA : ExecCase s .lsrAcc ((s.setReg .A (shrResult s.A)).setP (shrFlags s.A s.P))
  | shrMem (i : Instr) (ea : Addr) (hm : i.mnemonic = .lsr) (ha : i ≠ .lsrAcc) (hs : storesAt i s = [ea]) :
      ExecCase s i (s.shrMem ea)
  | pha : ExecCase s .pha (s.push s.A)
  | php : ExecCase s .php (s.push s.P)
  | pla : ExecCase s .pla (s.pulled.load .A s.pullByte)
  | plp : ExecCase s .plp (s.pulled.setP s.pullByte)
  | jmp (i : Instr) (target : Addr) (hm : i.mnemonic = .jmp) : ExecCase s i { s with pc := target }
  | jsr (addr16 : Addr) : ExecCase s (.jsr addr16)
      { (s.push (highByte (s.pc - 1))).push (lowByte (s.pc - 1)) with pc := addr16 }
  | rts : ExecCase s .rts { s.pulled.pulled with pc := joinBytes s.pulled.pullByte s.pullByte + 1 }
  | txs : ExecCase s .txs { s with S := s.X }
  | sec : ExecCase s .sec (s.setFlag .C true)
  | sei : ExecCase s .sei (s.setFlag .I true)
  | sed : ExecCase s .sed (s.setFlag .D true)
  | nop : ExecCase s .nop { s with mode := .halted }

/-- The operation of every instruction answers a next state, and it is one of those. -/
theorem exec_cases (i : Instr) (s : State) : ∃ t, exec i s = .next t ∧ ExecCase s i t := by
  cases i <;>
    first
    | exact ⟨_, rfl, .load _ _ _ rfl⟩
    | exact ⟨_, rfl, .shrA⟩
    | exact ⟨_, rfl, .shrMem _ _ rfl (by simp) rfl⟩
    | exact ⟨_, rfl, .pha⟩
    | exact ⟨_, rfl, .php⟩
    | exact ⟨_, rfl, .pla⟩
    | exact ⟨_, rfl, .plp⟩
    | exact ⟨_, rfl, .jmp _ _ rfl⟩
    | exact ⟨_, rfl, .jsr _⟩
    | exact ⟨_, rfl, .rts⟩
    | exact ⟨_, rfl, .txs⟩
    | exact ⟨_, rfl, .sec⟩
    | exact ⟨_, rfl, .sei⟩
    | exact ⟨_, rfl, .sed⟩
    | exact ⟨_, rfl, .nop⟩

/-- If an instruction answers t, t is one of those. -/
theorem execCase_of_next {i : Instr} {s t : State} (h : exec i s = .next t) : ExecCase s i t := by
  obtain ⟨u, hu, hc⟩ := exec_cases i s
  rw [hu] at h
  cases h
  exact hc

@[simp] theorem State.shrMem_A (s : State) (ea : Addr) : (s.shrMem ea).A = s.A := rfl
@[simp] theorem State.shrMem_X (s : State) (ea : Addr) : (s.shrMem ea).X = s.X := rfl
@[simp] theorem State.shrMem_Y (s : State) (ea : Addr) : (s.shrMem ea).Y = s.Y := rfl
@[simp] theorem State.shrMem_pc (s : State) (ea : Addr) : (s.shrMem ea).pc = s.pc := rfl
@[simp] theorem State.shrMem_S (s : State) (ea : Addr) : (s.shrMem ea).S = s.S := rfl
@[simp] theorem State.shrMem_P (s : State) (ea : Addr) : (s.shrMem ea).P = shrFlags (s.readByte ea) s.P := rfl
@[simp] theorem State.shrMem_mode (s : State) (ea : Addr) : (s.shrMem ea).mode = s.mode := rfl
@[simp] theorem State.shrMem_fault (s : State) (ea : Addr) : (s.shrMem ea).fault = s.fault := rfl

/-- Any byte after LSR on memory. -/
theorem State.readByte_shrMem (s : State) (ea j : Addr) :
    (s.shrMem ea).readByte j = if j = ea then shrResult (s.readByte ea) else s.readByte j := by
  rw [State.shrMem, State.readByte_setP, State.readByte_writeByte]

theorem State.wf_shrMem {s : State} (ea : Addr) (h : s.mem.wf = true) : (s.shrMem ea).mem.wf = true :=
  State.wf_writeByte ea _ h

/-! ## The step -/

theorem stepDisabled_of_running {s : State} (h : s.mode = .running) : s.stepDisabled = none := by
  simp only [State.stepDisabled, h]

theorem step_of_running {s : State} (h : s.mode = .running) :
    step s = match s.fetchInstr with
      | .raised t => .next t
      | .got i t => exec i t := by
  cases hf : s.fetchInstr <;> simp only [step, stepDisabled_of_running h, hf]

theorem step_of_halted {s : State} (h : s.mode = .halted) : step s = .fault .stepWhileHalted := by
  simp only [step, State.stepDisabled, h]

theorem step_of_faulted {s : State} (h : s.mode = .faulted) : step s = .fault .stepWhileFaulted := by
  simp only [step, State.stepDisabled, h]

/-- Everything a step that answers a next state can do: the mode was Running, and the fetch faulted or the
instruction at pc was executed from the state with pc past it. -/
theorem step_cases {s t : State} (h : step s = .next t) :
    s.mode = .running ∧
      (FetchCase s (.raised t) ∨ ∃ i, FetchCase s (.got i (s.advance i.length)) ∧ ExecCase (s.advance i.length) i t) := by
  cases hm : s.mode with
  | halted => rw [step_of_halted hm] at h; cases h
  | faulted => rw [step_of_faulted hm] at h; cases h
  | running =>
    refine ⟨rfl, ?_⟩
    rw [step_of_running hm] at h
    have hc := s.fetchInstr_cases
    revert h hc
    generalize s.fetchInstr = f
    intro h hc
    cases f with
    | raised u => cases h; exact .inl hc
    | got i u =>
      cases hc with
      | got _ hfit henc => exact .inr ⟨i, .got i hfit henc, execCase_of_next h⟩

end Sys2Proof.Machine
end

