-- ==== Sys2Proof/WellFormed.lean ====
section
/-! DEFINITION. Two checks: which mnemonic exists in which format (41_addressing_modes.md R132, R120,
R131), and where an instruction may stand (30_encoding.md R91). An operand field takes every value of
its width (30_encoding.md R81, R83), so no operand value is ill-formed and the types already hold
the widths. -/

namespace Sys2Proof

/-- The matrix of instruction against form: whether the combination exists (41_addressing_modes.md
R132 and, for the implied form, R120). -/
def cellExists : Mnemonic → Format → Bool
  | .lda, f | .and, f | .ora, f => f ∈ [.imm, .zp, .zpx, .abs, .absx, .absy, .indx, .indy]
  | .ldx, f => f ∈ [.imm, .zp, .zpy, .abs, .absy]
  | .ldy, f => f ∈ [.imm, .zp, .zpx, .abs, .absx]
  | .lsr, f => f ∈ [.acc, .zp, .zpx, .abs, .absx]
  | .jmp, f => f ∈ [.abs, .ind]
  | .jsr, f => f == .abs
  | .pha, f | .php, f | .pla, f | .plp, f | .rts, f => f == .imp
  | .tax, f | .tay, f | .txa, f | .tya, f | .tsx, f | .txs, f => f == .imp
  | .sec, f | .sei, f | .sed, f | .nop, f => f == .imp

/-- An instruction is well formed when its mnemonic exists in its format. Every constructor of `Instr`
is (Laws/PerInstr.lean); a combination outside the matrix has no constructor and no opcode byte. -/
def Instr.wellFormed (i : Instr) : Bool := cellExists i.mnemonic i.format

/-- No byte of an instruction may stand at 0xFFFF: an instruction at `addr` can be fetched whole exactly
when its last byte lies at 0xFFFE or below (30_encoding.md R91). -/
def Instr.fitsAt (i : Instr) (addr : Addr) : Bool := decide (addr.toNat + i.length ≤ 0xFFFF)

end Sys2Proof
end

