-- ==== Sys2Proof/Laws/PerInstr.lean ====
section
/-! SUPPORT. Facts stated instruction by instruction, about instructions as syntax. -/

namespace Sys2Proof.Laws.Layout

/-- The layout of an instruction: it is a cell of the matrix (41_addressing_modes.md R132, R120), its
encoding is as long as its format says (30_encoding.md R81, R82), and its first byte is an opcode
that the decoder knows, with the format's number of operand bytes. -/
def Statement (i : Instr) : Prop :=
  i.wellFormed = true ∧ (encode i).length = i.length ∧
    (opcodeEntry (opcodeOf i)).map OpcodeEntry.operandCount = some (i.length - 1)

theorem ldaImm (imm8 : Byte) : Statement (.ldaImm imm8) := ⟨rfl, rfl, rfl⟩
theorem ldaZp (zp8 : Byte) : Statement (.ldaZp zp8) := ⟨rfl, rfl, rfl⟩
theorem ldaZpx (zp8 : Byte) : Statement (.ldaZpx zp8) := ⟨rfl, rfl, rfl⟩
theorem ldaAbs (addr16 : Addr) : Statement (.ldaAbs addr16) := ⟨rfl, rfl, rfl⟩
theorem ldaAbsx (addr16 : Addr) : Statement (.ldaAbsx addr16) := ⟨rfl, rfl, rfl⟩
theorem ldaAbsy (addr16 : Addr) : Statement (.ldaAbsy addr16) := ⟨rfl, rfl, rfl⟩
theorem ldaIndx (zp8 : Byte) : Statement (.ldaIndx zp8) := ⟨rfl, rfl, rfl⟩
theorem ldaIndy (zp8 : Byte) : Statement (.ldaIndy zp8) := ⟨rfl, rfl, rfl⟩
theorem ldxImm (imm8 : Byte) : Statement (.ldxImm imm8) := ⟨rfl, rfl, rfl⟩
theorem ldxZp (zp8 : Byte) : Statement (.ldxZp zp8) := ⟨rfl, rfl, rfl⟩
theorem ldxZpy (zp8 : Byte) : Statement (.ldxZpy zp8) := ⟨rfl, rfl, rfl⟩
theorem ldxAbs (addr16 : Addr) : Statement (.ldxAbs addr16) := ⟨rfl, rfl, rfl⟩
theorem ldxAbsy (addr16 : Addr) : Statement (.ldxAbsy addr16) := ⟨rfl, rfl, rfl⟩
theorem ldyImm (imm8 : Byte) : Statement (.ldyImm imm8) := ⟨rfl, rfl, rfl⟩
theorem ldyZp (zp8 : Byte) : Statement (.ldyZp zp8) := ⟨rfl, rfl, rfl⟩
theorem ldyZpx (zp8 : Byte) : Statement (.ldyZpx zp8) := ⟨rfl, rfl, rfl⟩
theorem ldyAbs (addr16 : Addr) : Statement (.ldyAbs addr16) := ⟨rfl, rfl, rfl⟩
theorem ldyAbsx (addr16 : Addr) : Statement (.ldyAbsx addr16) := ⟨rfl, rfl, rfl⟩
theorem andImm (imm8 : Byte) : Statement (.andImm imm8) := ⟨rfl, rfl, rfl⟩
theorem andZp (zp8 : Byte) : Statement (.andZp zp8) := ⟨rfl, rfl, rfl⟩
theorem andZpx (zp8 : Byte) : Statement (.andZpx zp8) := ⟨rfl, rfl, rfl⟩
theorem andAbs (addr16 : Addr) : Statement (.andAbs addr16) := ⟨rfl, rfl, rfl⟩
theorem andAbsx (addr16 : Addr) : Statement (.andAbsx addr16) := ⟨rfl, rfl, rfl⟩
theorem andAbsy (addr16 : Addr) : Statement (.andAbsy addr16) := ⟨rfl, rfl, rfl⟩
theorem andIndx (zp8 : Byte) : Statement (.andIndx zp8) := ⟨rfl, rfl, rfl⟩
theorem andIndy (zp8 : Byte) : Statement (.andIndy zp8) := ⟨rfl, rfl, rfl⟩
theorem oraImm (imm8 : Byte) : Statement (.oraImm imm8) := ⟨rfl, rfl, rfl⟩
theorem oraZp (zp8 : Byte) : Statement (.oraZp zp8) := ⟨rfl, rfl, rfl⟩
theorem oraZpx (zp8 : Byte) : Statement (.oraZpx zp8) := ⟨rfl, rfl, rfl⟩
theorem oraAbs (addr16 : Addr) : Statement (.oraAbs addr16) := ⟨rfl, rfl, rfl⟩
theorem oraAbsx (addr16 : Addr) : Statement (.oraAbsx addr16) := ⟨rfl, rfl, rfl⟩
theorem oraAbsy (addr16 : Addr) : Statement (.oraAbsy addr16) := ⟨rfl, rfl, rfl⟩
theorem oraIndx (zp8 : Byte) : Statement (.oraIndx zp8) := ⟨rfl, rfl, rfl⟩
theorem oraIndy (zp8 : Byte) : Statement (.oraIndy zp8) := ⟨rfl, rfl, rfl⟩
theorem lsrAcc : Statement .lsrAcc := ⟨rfl, rfl, rfl⟩
theorem lsrZp (zp8 : Byte) : Statement (.lsrZp zp8) := ⟨rfl, rfl, rfl⟩
theorem lsrZpx (zp8 : Byte) : Statement (.lsrZpx zp8) := ⟨rfl, rfl, rfl⟩
theorem lsrAbs (addr16 : Addr) : Statement (.lsrAbs addr16) := ⟨rfl, rfl, rfl⟩
theorem lsrAbsx (addr16 : Addr) : Statement (.lsrAbsx addr16) := ⟨rfl, rfl, rfl⟩
theorem pha : Statement .pha := ⟨rfl, rfl, rfl⟩
theorem php : Statement .php := ⟨rfl, rfl, rfl⟩
theorem pla : Statement .pla := ⟨rfl, rfl, rfl⟩
theorem plp : Statement .plp := ⟨rfl, rfl, rfl⟩
theorem jmpAbs (addr16 : Addr) : Statement (.jmpAbs addr16) := ⟨rfl, rfl, rfl⟩
theorem jmpInd (addr16 : Addr) : Statement (.jmpInd addr16) := ⟨rfl, rfl, rfl⟩
theorem jsr (addr16 : Addr) : Statement (.jsr addr16) := ⟨rfl, rfl, rfl⟩
theorem rts : Statement .rts := ⟨rfl, rfl, rfl⟩
theorem tax : Statement .tax := ⟨rfl, rfl, rfl⟩
theorem tay : Statement .tay := ⟨rfl, rfl, rfl⟩
theorem txa : Statement .txa := ⟨rfl, rfl, rfl⟩
theorem tya : Statement .tya := ⟨rfl, rfl, rfl⟩
theorem tsx : Statement .tsx := ⟨rfl, rfl, rfl⟩
theorem txs : Statement .txs := ⟨rfl, rfl, rfl⟩
theorem sec : Statement .sec := ⟨rfl, rfl, rfl⟩
theorem sei : Statement .sei := ⟨rfl, rfl, rfl⟩
theorem sed : Statement .sed := ⟨rfl, rfl, rfl⟩
theorem nop : Statement .nop := ⟨rfl, rfl, rfl⟩

end Sys2Proof.Laws.Layout
end

