-- ==== Sys2Proof/Tests/Slice0.lean ====
section
/-! SUPPORT. The model's own tests: the smoke tests of the checks, the encodings written out from
30_encoding.md R84, one-step vectors of 95_test_vectors.md (expected values from the spec), and for every
statement with hypotheses a concrete state that meets them all. -/

namespace Sys2Proof.Tests

open Machine Claims

/-! ## Helpers -/

/-- The base state of 95_test_vectors.md part 2: everything zero and Running, with an instruction's bytes at
a, where pc points, and the named bytes seeded. -/
def code (a : Addr) (bs : List Byte) (seeded : List (Addr × Byte)) : State :=
  seeded.foldl (fun s c => s.writeByte c.1 c.2)
    (State.writeBytes { State.powerOn with pc := a, mode := .running } a bs)

/-- The step of s answers a next state, and that state passes the check. -/
def after (s : State) (check : State → Bool) : Bool :=
  match step s with
  | .next t => check t
  | .fault _ => false
  | .refused _ => false

/-! ## The checks refuse what is ill-formed -/

/-- Pairs of mnemonic and format that 41_addressing_modes.md R132 leaves out are refused, and each
mnemonic's own are not. -/
theorem test_cellExists_refuses :
    cellExists .ldx .absx = false ∧ cellExists .ldx .zpx = false ∧ cellExists .ldy .absy = false ∧
    cellExists .ldy .indy = false ∧ cellExists .lda .acc = false ∧ cellExists .and .zpy = false ∧
    cellExists .ora .ind = false ∧ cellExists .lsr .imm = false ∧ cellExists .lsr .absy = false ∧
    cellExists .jmp .absx = false ∧ cellExists .jsr .ind = false ∧ cellExists .pha .acc = false ∧
    cellExists .tax .imm = false ∧ cellExists .nop .zp = false := by
  decide

/-- No byte of an instruction may stand at 0xFFFF (30_encoding.md R91). -/
theorem test_fitsAt_refuses :
    Instr.fitsAt .nop 0xFFFF#16 = false ∧ Instr.fitsAt (.ldaImm 0) 0xFFFE#16 = false ∧
    Instr.fitsAt (.jsr 0) 0xFFFD#16 = false ∧ Instr.fitsAt (.jsr 0) 0xFFFC#16 = true ∧
    Instr.fitsAt .nop 0xFFFE#16 = true := by
  decide

/-- Memories out of order, with a repeat, with a power-on byte listed, or with a cell past the top are not
canonical. -/
theorem test_memory_wf_refuses :
    Memory.wf [(5, 1#8), (3, 2#8)] = false ∧ Memory.wf [(5, 1#8), (5, 2#8)] = false ∧
    Memory.wf [(5, 0#8)] = false ∧ Memory.wf [(65536, 1#8)] = false ∧
    Memory.wf [(3, 2#8), (5, 1#8), (65535, 9#8)] = true := by
  decide

/-- A fault record in mode Running, and mode Faulted without one, are no states of the machine. -/
theorem test_recordOk_refuses :
    ¬RecordOk { State.reset with fault := some (.pcOverrun 0xFFFF#16) } ∧
    ¬RecordOk { State.reset with mode := .faulted } ∧
    ¬RecordOk { State.reset with mode := .faulted, fault := some (.unknownOpcode 0xEA#8 0xFFFB#16) } := by
  refine ⟨fun h => ?_, fun h => ?_, fun h => ?_⟩
  · exact absurd h.1 (by decide)
  · exact absurd rfl h
  · exact absurd (congrArg Option.isNone h.2.1) (by decide)

/-! ## Encodings, from 30_encoding.md R84 -/

theorem test_decode_loads :
    decode [0xA0#8, 0x9C#8] = .instr (.ldyImm 0x9C#8) [] ∧
    decode [0xA1#8, 0x9C#8] = .instr (.ldaIndx 0x9C#8) [] ∧
    decode [0xA2#8, 0x9C#8] = .instr (.ldxImm 0x9C#8) [] ∧
    decode [0xA4#8, 0x9C#8] = .instr (.ldyZp 0x9C#8) [] ∧
    decode [0xA5#8, 0x9C#8] = .instr (.ldaZp 0x9C#8) [] ∧
    decode [0xA6#8, 0x9C#8] = .instr (.ldxZp 0x9C#8) [] ∧
    decode [0xA9#8, 0x9C#8] = .instr (.ldaImm 0x9C#8) [] ∧
    decode [0xAC#8, 0x34#8, 0x92#8] = .instr (.ldyAbs 0x9234#16) [] ∧
    decode [0xAD#8, 0x34#8, 0x92#8] = .instr (.ldaAbs 0x9234#16) [] ∧
    decode [0xAE#8, 0x34#8, 0x92#8] = .instr (.ldxAbs 0x9234#16) [] ∧
    decode [0xB1#8, 0x9C#8] = .instr (.ldaIndy 0x9C#8) [] ∧
    decode [0xB4#8, 0x9C#8] = .instr (.ldyZpx 0x9C#8) [] ∧
    decode [0xB5#8, 0x9C#8] = .instr (.ldaZpx 0x9C#8) [] ∧
    decode [0xB6#8, 0x9C#8] = .instr (.ldxZpy 0x9C#8) [] ∧
    decode [0xB9#8, 0x34#8, 0x92#8] = .instr (.ldaAbsy 0x9234#16) [] ∧
    decode [0xBC#8, 0x34#8, 0x92#8] = .instr (.ldyAbsx 0x9234#16) [] ∧
    decode [0xBD#8, 0x34#8, 0x92#8] = .instr (.ldaAbsx 0x9234#16) [] ∧
    decode [0xBE#8, 0x34#8, 0x92#8] = .instr (.ldxAbsy 0x9234#16) [] := by
  decide

theorem test_decode_and :
    decode [0x21#8, 0x9C#8] = .instr (.andIndx 0x9C#8) [] ∧
    decode [0x25#8, 0x9C#8] = .instr (.andZp 0x9C#8) [] ∧
    decode [0x29#8, 0x9C#8] = .instr (.andImm 0x9C#8) [] ∧
    decode [0x2D#8, 0x34#8, 0x92#8] = .instr (.andAbs 0x9234#16) [] ∧
    decode [0x31#8, 0x9C#8] = .instr (.andIndy 0x9C#8) [] ∧
    decode [0x35#8, 0x9C#8] = .instr (.andZpx 0x9C#8) [] ∧
    decode [0x39#8, 0x34#8, 0x92#8] = .instr (.andAbsy 0x9234#16) [] ∧
    decode [0x3D#8, 0x34#8, 0x92#8] = .instr (.andAbsx 0x9234#16) [] := by
  decide

theorem test_decode_ora :
    decode [0x01#8, 0x9C#8] = .instr (.oraIndx 0x9C#8) [] ∧
    decode [0x05#8, 0x9C#8] = .instr (.oraZp 0x9C#8) [] ∧
    decode [0x09#8, 0x9C#8] = .instr (.oraImm 0x9C#8) [] ∧
    decode [0x0D#8, 0x34#8, 0x92#8] = .instr (.oraAbs 0x9234#16) [] ∧
    decode [0x11#8, 0x9C#8] = .instr (.oraIndy 0x9C#8) [] ∧
    decode [0x15#8, 0x9C#8] = .instr (.oraZpx 0x9C#8) [] ∧
    decode [0x19#8, 0x34#8, 0x92#8] = .instr (.oraAbsy 0x9234#16) [] ∧
    decode [0x1D#8, 0x34#8, 0x92#8] = .instr (.oraAbsx 0x9234#16) [] := by
  decide

theorem test_decode_shift :
    decode [0x46#8, 0x9C#8] = .instr (.lsrZp 0x9C#8) [] ∧
    decode [0x4A#8] = .instr .lsrAcc [] ∧
    decode [0x4E#8, 0x34#8, 0x92#8] = .instr (.lsrAbs 0x9234#16) [] ∧
    decode [0x56#8, 0x9C#8] = .instr (.lsrZpx 0x9C#8) [] ∧
    decode [0x5E#8, 0x34#8, 0x92#8] = .instr (.lsrAbsx 0x9234#16) [] := by
  decide

theorem test_decode_stack :
    decode [0x08#8] = .instr .php [] ∧
    decode [0x28#8] = .instr .plp [] ∧
    decode [0x48#8] = .instr .pha [] ∧
    decode [0x68#8] = .instr .pla [] := by
  decide

theorem test_decode_control :
    decode [0x20#8, 0x34#8, 0x92#8] = .instr (.jsr 0x9234#16) [] ∧
    decode [0x4C#8, 0x34#8, 0x92#8] = .instr (.jmpAbs 0x9234#16) [] ∧
    decode [0x60#8] = .instr .rts [] ∧
    decode [0x6C#8, 0x34#8, 0x92#8] = .instr (.jmpInd 0x9234#16) [] := by
  decide

theorem test_decode_transfer :
    decode [0x8A#8] = .instr .txa [] ∧
    decode [0x98#8] = .instr .tya [] ∧
    decode [0x9A#8] = .instr .txs [] ∧
    decode [0xA8#8] = .instr .tay [] ∧
    decode [0xAA#8] = .instr .tax [] ∧
    decode [0xBA#8] = .instr .tsx [] := by
  decide

theorem test_decode_flag_halt :
    decode [0x38#8] = .instr .sec [] ∧
    decode [0x78#8] = .instr .sei [] ∧
    decode [0xEA#8] = .instr .nop [] ∧
    decode [0xF8#8] = .instr .sed [] := by
  decide

/-- Illegal bytes, missing operand bytes and no bytes at all are rejected by name; bytes that follow are
handed back. -/
theorem test_decode_rejects :
    decode [0x02#8, 0x01#8] = .rejected (.illegalOpcode 0x02#8) ∧
    decode [0x00#8] = .rejected (.illegalOpcode 0x00#8) ∧
    decode [0x6E#8, 0x00#8, 0x00#8] = .rejected (.illegalOpcode 0x6E#8) ∧
    decode [0xA9#8] = .rejected (.truncated 0xA9#8) ∧
    decode [0x20#8, 0x10#8] = .rejected (.truncated 0x20#8) ∧
    decode [] = .rejected .noBytes ∧
    decode [0x48#8, 0x68#8] = .instr .pha [0x68#8] := by
  decide

/-- Encodings written out by hand. -/
theorem test_encode :
    encode (.ldaZpx 0xF0#8) = [0xB5#8, 0xF0#8] ∧ encode (.jsr 0x0610#16) = [0x20#8, 0x10#8, 0x06#8] ∧
    encode .lsrAcc = [0x4A#8] := by
  decide

/-- Words numbered as the opcode table numbers them: the first byte lowest, bits from nbits up zero. -/
theorem test_decodeTableWord :
    decodeTableWord 8 0xB5 = some (.ldaZpx 0x00#8) ∧ decodeTableWord 16 0xF0B5 = some (.ldaZpx 0xF0#8) ∧
    decodeTableWord 24 0x1234AD = some (.ldaAbs 0x1234#16) ∧ decodeTableWord 8 0x1234AD = some (.ldaAbs 0x0000#16) ∧
    decodeTableWord 8 0x02 = none := by
  decide

/-- The first step after reset runs the placed instruction: AND #$00 of A = 0 sets Z; a three-byte jump at
0xFFFC goes to its operand; the halt opcode halts. -/
theorem test_withFetchWord_runs :
    after (State.reset.withFetchWord 16 0x0029) (fun t => t.pc = 0xFFFE#16 ∧ t.P = 0x02#8 ∧ t.mode = .running) ∧
    after (State.reset.withFetchWord 24 0x80404C) (fun t => t.pc = 0x8040#16 ∧ t.mode = .running) ∧
    after (State.reset.withFetchWord 8 0xEA) (fun t => t.pc = 0xFFFD#16 ∧ t.mode = .halted) := by
  decide

/-- With nothing placed, the first step after reset fetches the power-on byte 0x00, an illegal opcode. -/
theorem test_reset_alone_faults :
    after State.reset (fun t => t.mode = .faulted ∧ t.fault = some (.unknownOpcode 0x00#8 0xFFFC#16)) := by
  decide

/-! ## One-step vectors, from 95_test_vectors.md part 2 -/

/-! ### Loads (42_load.md) -/

/-- V-LD-04: `LDA #$01`. -/
theorem test_V_LD_04_ldaImm :
    after { code 0x0600#16 [0xA9#8, 0x01#8] [] with P := 0xFF#8 }
      (fun t => t.pc = 0x0602#16 ∧ t.A = 0x01#8 ∧ t.P = 0x7D#8) := by
  decide

/-- V-LD-05: `LDA #$00`. -/
theorem test_V_LD_05_ldaImm :
    after { code 0x0600#16 [0xA9#8, 0x00#8] [] with A := 0x01#8, P := 0xFD#8 }
      (fun t => t.pc = 0x0602#16 ∧ t.A = 0x00#8 ∧ t.P = 0x7F#8) := by
  decide

/-- V-LD-06: `LDA $10`. -/
theorem test_V_LD_06_ldaZp :
    after (code 0x0600#16 [0xA5#8, 0x10#8] [(0x0010#16, 0x99#8)])
      (fun t => t.pc = 0x0602#16 ∧ t.A = 0x99#8 ∧ t.P = 0x80#8) := by
  decide

/-- V-LD-07: `LDA $F0,X` (no wrap: EA = 0x0110). -/
theorem test_V_LD_07_ldaZpx :
    after { code 0x0600#16 [0xB5#8, 0xF0#8] [(0x0010#16, 0xEE#8), (0x0110#16, 0x44#8)] with X := 0x20#8 }
      (fun t => t.pc = 0x0602#16 ∧ t.A = 0x44#8 ∧ t.P = 0x00#8) := by
  decide

/-- V-LD-08: `LDA $FF,X` (EA = 0x01FE, the largest). -/
theorem test_V_LD_08_ldaZpx :
    after { code 0x0600#16 [0xB5#8, 0xFF#8] [(0x00FE#16, 0x11#8), (0x01FE#16, 0x81#8)] with X := 0xFF#8 }
      (fun t => t.pc = 0x0602#16 ∧ t.A = 0x81#8 ∧ t.P = 0x80#8) := by
  decide

/-- V-LD-10: `LDA $FFF0,X` (EA wraps to 0x0010). -/
theorem test_V_LD_10_ldaAbsx :
    after { code 0x0600#16 [0xBD#8, 0xF0#8, 0xFF#8] [(0x0010#16, 0x77#8)] with X := 0x20#8 }
      (fun t => t.pc = 0x0603#16 ∧ t.A = 0x77#8 ∧ t.P = 0x00#8) := by
  decide

/-- V-LD-11: `LDA $FFFF,Y` (EA wraps to 0x0000). -/
theorem test_V_LD_11_ldaAbsy :
    after { code 0x0600#16 [0xB9#8, 0xFF#8, 0xFF#8] [(0x0000#16, 0xC3#8)] with Y := 0x01#8 }
      (fun t => t.pc = 0x0603#16 ∧ t.A = 0xC3#8 ∧ t.P = 0x80#8) := by
  decide

/-- V-LD-12: `LDA ($F0,X)` (pointer at 0x00FF, high byte from 0x0100). -/
theorem test_V_LD_12_ldaIndx :
    after { code 0x0600#16 [0xA1#8, 0xF0#8] [(0x0000#16, 0x99#8), (0x00FF#16, 0x34#8), (0x0100#16, 0x12#8), (0x1234#16, 0x6B#8)] with X := 0x0F#8 }
      (fun t => t.pc = 0x0602#16 ∧ t.A = 0x6B#8 ∧ t.P = 0x00#8) := by
  decide

/-- V-LD-13: `LDA ($20,X)` (pointer at 0x0110, not 0x0010). -/
theorem test_V_LD_13_ldaIndx :
    after { code 0x0600#16 [0xA1#8, 0x20#8] [(0x0010#16, 0xAA#8), (0x0011#16, 0xBB#8), (0x0110#16, 0x00#8), (0x0111#16, 0x30#8), (0x3000#16, 0x21#8)] with X := 0xF0#8 }
      (fun t => t.pc = 0x0602#16 ∧ t.A = 0x21#8 ∧ t.P = 0x00#8) := by
  decide

/-- V-LD-14: `LDA ($FF),Y` (pointer high byte from 0x0100). -/
theorem test_V_LD_14_ldaIndy :
    after { code 0x0600#16 [0xB1#8, 0xFF#8] [(0x0000#16, 0x50#8), (0x00FF#16, 0x00#8), (0x0100#16, 0x40#8), (0x4003#16, 0x9C#8)] with Y := 0x03#8 }
      (fun t => t.pc = 0x0602#16 ∧ t.A = 0x9C#8 ∧ t.P = 0x80#8) := by
  decide

/-- V-LD-15: `LDA ($10),Y` (0xFFFF + 2 wraps to 0x0001). -/
theorem test_V_LD_15_ldaIndy :
    after { code 0x0600#16 [0xB1#8, 0x10#8] [(0x0001#16, 0x3D#8), (0x0010#16, 0xFF#8), (0x0011#16, 0xFF#8)] with Y := 0x02#8 }
      (fun t => t.pc = 0x0602#16 ∧ t.A = 0x3D#8 ∧ t.P = 0x00#8) := by
  decide

/-- V-LD-16: `LDX #$00`. -/
theorem test_V_LD_16_ldxImm :
    after { code 0x0600#16 [0xA2#8, 0x00#8] [] with X := 0x01#8 }
      (fun t => t.pc = 0x0602#16 ∧ t.X = 0x00#8 ∧ t.P = 0x02#8) := by
  decide

/-- V-LD-17: `LDX $10`. -/
theorem test_V_LD_17_ldxZp :
    after (code 0x0600#16 [0xA6#8, 0x10#8] [(0x0010#16, 0xFE#8)])
      (fun t => t.pc = 0x0602#16 ∧ t.X = 0xFE#8 ∧ t.P = 0x80#8) := by
  decide

/-- V-LD-18: `LDX $80,Y` (EA = 0x0110). -/
theorem test_V_LD_18_ldxZpy :
    after { code 0x0600#16 [0xB6#8, 0x80#8] [(0x0010#16, 0x80#8), (0x0110#16, 0x08#8)] with Y := 0x90#8 }
      (fun t => t.pc = 0x0602#16 ∧ t.X = 0x08#8 ∧ t.P = 0x00#8) := by
  decide

/-- V-LD-19: `LDX $2000`. -/
theorem test_V_LD_19_ldxAbs :
    after { code 0x0600#16 [0xAE#8, 0x00#8, 0x20#8] [(0x2000#16, 0x00#8)] with X := 0x44#8 }
      (fun t => t.pc = 0x0603#16 ∧ t.X = 0x00#8 ∧ t.P = 0x02#8) := by
  decide

/-- V-LD-20: `LDX $12FF,Y`. -/
theorem test_V_LD_20_ldxAbsy :
    after { code 0x0600#16 [0xBE#8, 0xFF#8, 0x12#8] [(0x1300#16, 0xB0#8)] with Y := 0x01#8 }
      (fun t => t.pc = 0x0603#16 ∧ t.X = 0xB0#8 ∧ t.P = 0x80#8) := by
  decide

/-- V-LD-21: `LDY #$FF`. -/
theorem test_V_LD_21_ldyImm :
    after (code 0x0600#16 [0xA0#8, 0xFF#8] [])
      (fun t => t.pc = 0x0602#16 ∧ t.Y = 0xFF#8 ∧ t.P = 0x80#8) := by
  decide

/-- V-LD-22: `LDY $10`. -/
theorem test_V_LD_22_ldyZp :
    after { code 0x0600#16 [0xA4#8, 0x10#8] [(0x0010#16, 0x00#8)] with Y := 0x44#8 }
      (fun t => t.pc = 0x0602#16 ∧ t.Y = 0x00#8 ∧ t.P = 0x02#8) := by
  decide

/-- V-LD-23: `LDY $FF,X` (EA = 0x0100). -/
theorem test_V_LD_23_ldyZpx :
    after { code 0x0600#16 [0xB4#8, 0xFF#8] [(0x0000#16, 0x31#8), (0x0100#16, 0x13#8)] with X := 0x01#8 }
      (fun t => t.pc = 0x0602#16 ∧ t.Y = 0x13#8 ∧ t.P = 0x00#8) := by
  decide

/-- V-LD-24: `LDY $C000`. -/
theorem test_V_LD_24_ldyAbs :
    after (code 0x0600#16 [0xAC#8, 0x00#8, 0xC0#8] [(0xC000#16, 0x40#8)])
      (fun t => t.pc = 0x0603#16 ∧ t.Y = 0x40#8 ∧ t.P = 0x00#8) := by
  decide

/-- V-LD-25: `LDY $C0F0,X`. -/
theorem test_V_LD_25_ldyAbsx :
    after { code 0x0600#16 [0xBC#8, 0xF0#8, 0xC0#8] [(0xC100#16, 0x80#8)] with X := 0x10#8 }
      (fun t => t.pc = 0x0603#16 ∧ t.Y = 0x80#8 ∧ t.P = 0x80#8) := by
  decide

/-- V-LD-27: `LDA $0042` (high operand byte at 0xFFFF). -/
theorem test_V_LD_27_ldaAbs :
    after { code 0xFFFD#16 [0xAD#8, 0x42#8, 0x00#8] [(0x0042#16, 0x99#8)] with A := 0x11#8 }
      (fun t => t.pc = 0xFFFF#16 ∧ t.P = 0x00#8 ∧ t.mode = .faulted ∧ t.fault = some (.pcOverrun 0xFFFF#16)) := by
  decide

/-- V-LD-28: `LDA $0600` (reads its own opcode byte). -/
theorem test_V_LD_28_ldaAbs :
    after (code 0x0600#16 [0xAD#8, 0x00#8, 0x06#8] [])
      (fun t => t.pc = 0x0603#16 ∧ t.A = 0xAD#8 ∧ t.P = 0x80#8) := by
  decide


/-! ### Logical instructions (43_logical.md) -/

/-- V-LG-04: `AND #$00`. -/
theorem test_V_LG_04_andImm :
    after { code 0x0600#16 [0x29#8, 0x00#8] [] with A := 0xFF#8, P := 0xFD#8 }
      (fun t => t.pc = 0x0602#16 ∧ t.A = 0x00#8 ∧ t.P = 0x7F#8) := by
  decide

/-- V-LG-05: `AND $10`. -/
theorem test_V_LG_05_andZp :
    after { code 0x0600#16 [0x25#8, 0x10#8] [(0x0010#16, 0x0F#8)] with A := 0x3C#8 }
      (fun t => t.pc = 0x0602#16 ∧ t.A = 0x0C#8 ∧ t.P = 0x00#8) := by
  decide

/-- V-LG-06: `AND $F8,X` (EA = 0x0108). -/
theorem test_V_LG_06_andZpx :
    after { code 0x0600#16 [0x35#8, 0xF8#8] [(0x0008#16, 0x00#8), (0x0108#16, 0x81#8)] with A := 0xFF#8, X := 0x10#8 }
      (fun t => t.pc = 0x0602#16 ∧ t.A = 0x81#8 ∧ t.P = 0x80#8) := by
  decide

/-- V-LG-07: `AND $1234`. -/
theorem test_V_LG_07_andAbs :
    after { code 0x0600#16 [0x2D#8, 0x34#8, 0x12#8] [(0x1234#16, 0x55#8)] with A := 0xAA#8 }
      (fun t => t.pc = 0x0603#16 ∧ t.A = 0x00#8 ∧ t.P = 0x02#8) := by
  decide

/-- V-LG-08: `AND $12F0,X`. -/
theorem test_V_LG_08_andAbsx :
    after { code 0x0600#16 [0x3D#8, 0xF0#8, 0x12#8] [(0x1310#16, 0x7E#8)] with A := 0xFF#8, X := 0x20#8 }
      (fun t => t.pc = 0x0603#16 ∧ t.A = 0x7E#8 ∧ t.P = 0x00#8) := by
  decide

/-- V-LG-09: `AND $FFFF,Y` (EA wraps to 0x00FE). -/
theorem test_V_LG_09_andAbsy :
    after { code 0x0600#16 [0x39#8, 0xFF#8, 0xFF#8] [(0x00FE#16, 0x18#8)] with A := 0xFF#8, Y := 0xFF#8 }
      (fun t => t.pc = 0x0603#16 ∧ t.A = 0x18#8 ∧ t.P = 0x00#8) := by
  decide

/-- V-LG-10: `AND ($40,X)`. -/
theorem test_V_LG_10_andIndx :
    after { code 0x0600#16 [0x21#8, 0x40#8] [(0x0044#16, 0x00#8), (0x0045#16, 0x20#8), (0x2000#16, 0x3F#8)] with A := 0xF3#8, X := 0x04#8 }
      (fun t => t.pc = 0x0602#16 ∧ t.A = 0x33#8 ∧ t.P = 0x00#8) := by
  decide

/-- V-LG-11: `AND ($40),Y` (EA = 0x20F8 + 0x10 = 0x2108). -/
theorem test_V_LG_11_andIndy :
    after { code 0x0600#16 [0x31#8, 0x40#8] [(0x0040#16, 0xF8#8), (0x0041#16, 0x20#8), (0x2108#16, 0x80#8)] with A := 0xC0#8, Y := 0x10#8 }
      (fun t => t.pc = 0x0602#16 ∧ t.A = 0x80#8 ∧ t.P = 0x80#8) := by
  decide

/-- V-LG-13: `ORA #$80`. -/
theorem test_V_LG_13_oraImm :
    after { code 0x0600#16 [0x09#8, 0x80#8] [] with A := 0x01#8 }
      (fun t => t.pc = 0x0602#16 ∧ t.A = 0x81#8 ∧ t.P = 0x80#8) := by
  decide

/-- V-LG-14: `ORA #$FF`. -/
theorem test_V_LG_14_oraImm :
    after { code 0x0600#16 [0x09#8, 0xFF#8] [] with A := 0x00#8, P := 0x7F#8 }
      (fun t => t.pc = 0x0602#16 ∧ t.A = 0xFF#8 ∧ t.P = 0xFD#8) := by
  decide

/-- V-LG-15: `ORA $10`. -/
theorem test_V_LG_15_oraZp :
    after { code 0x0600#16 [0x05#8, 0x10#8] [(0x0010#16, 0x30#8)] with A := 0x0F#8 }
      (fun t => t.pc = 0x0602#16 ∧ t.A = 0x3F#8 ∧ t.P = 0x00#8) := by
  decide

/-- V-LG-16: `ORA $FF,X` (EA = 0x0101). -/
theorem test_V_LG_16_oraZpx :
    after { code 0x0600#16 [0x15#8, 0xFF#8] [(0x0001#16, 0x80#8), (0x0101#16, 0x02#8)] with A := 0x00#8, X := 0x02#8 }
      (fun t => t.pc = 0x0602#16 ∧ t.A = 0x02#8 ∧ t.P = 0x00#8) := by
  decide

/-- V-LG-17: `ORA $1234`. -/
theorem test_V_LG_17_oraAbs :
    after { code 0x0600#16 [0x0D#8, 0x34#8, 0x12#8] [(0x1234#16, 0x00#8)] with A := 0x00#8 }
      (fun t => t.pc = 0x0603#16 ∧ t.P = 0x02#8) := by
  decide

/-- V-LG-18: `ORA $1200,X`. -/
theorem test_V_LG_18_oraAbsx :
    after { code 0x0600#16 [0x1D#8, 0x00#8, 0x12#8] [(0x12FF#16, 0x22#8)] with A := 0x11#8, X := 0xFF#8 }
      (fun t => t.pc = 0x0603#16 ∧ t.A = 0x33#8 ∧ t.P = 0x00#8) := by
  decide

/-- V-LG-19: `ORA $1200,Y`. -/
theorem test_V_LG_19_oraAbsy :
    after { code 0x0600#16 [0x19#8, 0x00#8, 0x12#8] [(0x1201#16, 0x04#8)] with A := 0x40#8, Y := 0x01#8 }
      (fun t => t.pc = 0x0603#16 ∧ t.A = 0x44#8 ∧ t.P = 0x00#8) := by
  decide

/-- V-LG-20: `ORA ($FE,X)` (pointer at 0x00FF, high byte from 0x0100). -/
theorem test_V_LG_20_oraIndx :
    after { code 0x0600#16 [0x01#8, 0xFE#8] [(0x0000#16, 0x30#8), (0x00FF#16, 0x10#8), (0x0100#16, 0x20#8), (0x2010#16, 0x80#8)] with A := 0x01#8, X := 0x01#8 }
      (fun t => t.pc = 0x0602#16 ∧ t.A = 0x81#8 ∧ t.P = 0x80#8) := by
  decide

/-- V-LG-21: `ORA ($40),Y` (0xFF01 + 0xFF wraps to 0x0000). -/
theorem test_V_LG_21_oraIndy :
    after { code 0x0600#16 [0x11#8, 0x40#8] [(0x0000#16, 0x07#8), (0x0040#16, 0x01#8), (0x0041#16, 0xFF#8)] with A := 0x00#8, Y := 0xFF#8 }
      (fun t => t.pc = 0x0602#16 ∧ t.A = 0x07#8 ∧ t.P = 0x00#8) := by
  decide


/-! ### Shift (44_shift.md) -/

/-- V-SH-06: `LSR A` (C, Z, N cleared; V, bit 5, B, D, I kept). -/
theorem test_V_SH_06_lsrAcc :
    after { code 0x0600#16 [0x4A#8] [] with A := 0x02#8, P := 0xFF#8 }
      (fun t => t.pc = 0x0601#16 ∧ t.A = 0x01#8 ∧ t.P = 0x7C#8) := by
  decide

/-- V-SH-07: `LSR A`. -/
theorem test_V_SH_07_lsrAcc :
    after { code 0x0600#16 [0x4A#8] [] with A := 0x01#8, P := 0x80#8 }
      (fun t => t.pc = 0x0601#16 ∧ t.A = 0x00#8 ∧ t.P = 0x03#8) := by
  decide

/-- V-SH-08: `LSR $10`. -/
theorem test_V_SH_08_lsrZp :
    after { code 0x0600#16 [0x46#8, 0x10#8] [(0x0010#16, 0x81#8)] with A := 0x77#8 }
      (fun t => t.pc = 0x0602#16 ∧ t.P = 0x01#8 ∧ t.readByte 0x0010#16 = 0x40#8) := by
  decide

/-- V-SH-09: `LSR $FF,X` (EA = 0x0101, in the stack page). -/
theorem test_V_SH_09_lsrZpx :
    after { code 0x0600#16 [0x56#8, 0xFF#8] [(0x0001#16, 0xF0#8), (0x0101#16, 0x05#8)] with X := 0x02#8 }
      (fun t => t.pc = 0x0602#16 ∧ t.P = 0x01#8 ∧ t.readByte 0x0101#16 = 0x02#8) := by
  decide

/-- V-SH-11: `LSR $FFFF,X` (EA wraps to 0x0010). -/
theorem test_V_SH_11_lsrAbsx :
    after { code 0x0600#16 [0x5E#8, 0xFF#8, 0xFF#8] [(0x0010#16, 0xFE#8)] with X := 0x11#8 }
      (fun t => t.pc = 0x0603#16 ∧ t.P = 0x00#8 ∧ t.readByte 0x0010#16 = 0x7F#8) := by
  decide

/-- V-SH-12: `LSR $0602` (shifts its own high operand byte, after fetching it). -/
theorem test_V_SH_12_lsrAbs :
    after (code 0x0600#16 [0x4E#8, 0x02#8, 0x06#8] [])
      (fun t => t.pc = 0x0603#16 ∧ t.P = 0x00#8 ∧ t.readByte 0x0602#16 = 0x03#8) := by
  decide

/-- V-SH-13: `LSR $0010` (high operand byte at 0xFFFF; memory not touched). -/
theorem test_V_SH_13_lsrAbs :
    after (code 0xFFFD#16 [0x4E#8, 0x10#8, 0x00#8] [(0x0010#16, 0x03#8)])
      (fun t => t.pc = 0xFFFF#16 ∧ t.P = 0x00#8 ∧ t.mode = .faulted ∧ t.fault = some (.pcOverrun 0xFFFF#16)) := by
  decide


/-! ### Stack (45_stack.md) -/

/-- V-ST-01: `PHA` (first push after reset). -/
theorem test_V_ST_01_pha :
    after { code 0x0600#16 [0x48#8] [] with A := 0x42#8, S := 0x00#8 }
      (fun t => t.pc = 0x0601#16 ∧ t.S = 0xFF#8 ∧ t.P = 0x00#8 ∧ t.readByte 0x0100#16 = 0x42#8) := by
  decide

/-- V-ST-02: `PHA` (no flag changes). -/
theorem test_V_ST_02_pha :
    after { code 0x0600#16 [0x48#8] [] with A := 0x00#8, S := 0xFF#8, P := 0x80#8 }
      (fun t => t.pc = 0x0601#16 ∧ t.S = 0xFE#8 ∧ t.P = 0x80#8 ∧ t.readByte 0x01FF#16 = 0x00#8) := by
  decide

/-- V-ST-04: `PHP`. -/
theorem test_V_ST_04_php :
    after { code 0x0600#16 [0x08#8] [] with S := 0xFF#8, P := 0xFF#8 }
      (fun t => t.pc = 0x0601#16 ∧ t.S = 0xFE#8 ∧ t.P = 0xFF#8 ∧ t.readByte 0x01FF#16 = 0xFF#8) := by
  decide

/-- V-ST-05: `PHP` (bits 4 and 5 not forced). -/
theorem test_V_ST_05_php :
    after { code 0x0600#16 [0x08#8] [(0x0100#16, 0xAA#8)] with S := 0x00#8, P := 0x00#8 }
      (fun t => t.pc = 0x0601#16 ∧ t.S = 0xFF#8 ∧ t.P = 0x00#8 ∧ t.readByte 0x0100#16 = 0x00#8) := by
  decide

/-- V-ST-08: `PLA` (S wraps to 0x00; 0x0200 not read). -/
theorem test_V_ST_08_pla :
    after { code 0x0600#16 [0x68#8] [(0x0100#16, 0x80#8), (0x0200#16, 0x7F#8)] with S := 0xFF#8 }
      (fun t => t.pc = 0x0601#16 ∧ t.A = 0x80#8 ∧ t.S = 0x00#8 ∧ t.P = 0x80#8) := by
  decide

/-- V-ST-09: `PLA`. -/
theorem test_V_ST_09_pla :
    after { code 0x0600#16 [0x68#8] [(0x0180#16, 0x01#8)] with S := 0x7F#8, P := 0xFF#8 }
      (fun t => t.pc = 0x0601#16 ∧ t.A = 0x01#8 ∧ t.S = 0x80#8 ∧ t.P = 0x7D#8) := by
  decide

/-- V-ST-11: `PLP`. -/
theorem test_V_ST_11_plp :
    after { code 0x0600#16 [0x28#8] [(0x01FF#16, 0x00#8)] with S := 0xFE#8, P := 0xFF#8 }
      (fun t => t.pc = 0x0601#16 ∧ t.S = 0xFF#8 ∧ t.P = 0x00#8) := by
  decide

/-- V-ST-12: `PLP` (bit 5 and B loaded as pulled). -/
theorem test_V_ST_12_plp :
    after { code 0x0600#16 [0x28#8] [(0x0100#16, 0x30#8)] with S := 0xFF#8, P := 0x00#8 }
      (fun t => t.pc = 0x0601#16 ∧ t.S = 0x00#8 ∧ t.P = 0x30#8) := by
  decide


/-! ### Control transfer (46_control_flow.md) -/

/-- V-CF-01: `JMP $8000`. -/
theorem test_V_CF_01_jmpAbs :
    after (code 0x0600#16 [0x4C#8, 0x00#8, 0x80#8] [])
      (fun t => t.pc = 0x8000#16 ∧ t.P = 0x00#8) := by
  decide

/-- V-CF-05: `JMP ($30FF)`. -/
theorem test_V_CF_05_jmpInd :
    after (code 0x0600#16 [0x6C#8, 0xFF#8, 0x30#8] [(0x3000#16, 0x80#8), (0x30FF#16, 0x40#8), (0x3100#16, 0x50#8)])
      (fun t => t.pc = 0x8040#16 ∧ t.P = 0x00#8) := by
  decide

/-- V-CF-07: `JMP ($FFFF)` (high byte from 0xFF00, not 0x0000). -/
theorem test_V_CF_07_jmpInd :
    after (code 0x0600#16 [0x6C#8, 0xFF#8, 0xFF#8] [(0x0000#16, 0x99#8), (0xFF00#16, 0x12#8), (0xFFFF#16, 0x34#8)])
      (fun t => t.pc = 0x1234#16 ∧ t.P = 0x00#8) := by
  decide

/-- V-CF-10: `JSR $0610` (S as after reset). -/
theorem test_V_CF_10_jsr :
    after { code 0x0602#16 [0x20#8, 0x10#8, 0x06#8] [] with S := 0x00#8 }
      (fun t => t.pc = 0x0610#16 ∧ t.S = 0xFE#8 ∧ t.P = 0x00#8 ∧ t.readByte 0x0100#16 = 0x06#8 ∧ t.readByte 0x01FF#16 = 0x04#8) := by
  decide

/-- V-CF-14: `JSR $4030` (its operand bytes lie in the cells it pushes to). -/
theorem test_V_CF_14_jsr :
    after { code 0x01FD#16 [0x20#8, 0x30#8, 0x40#8] [] with S := 0xFF#8 }
      (fun t => t.pc = 0x4030#16 ∧ t.S = 0xFD#8 ∧ t.P = 0x00#8 ∧ t.readByte 0x01FF#16 = 0x01#8 ∧ t.readByte 0x01FE#16 = 0xFF#8) := by
  decide

/-- V-CF-16: `RTS` (the return of V-CF-10). -/
theorem test_V_CF_16_rts :
    after { code 0x0610#16 [0x60#8] [(0x0100#16, 0x06#8), (0x01FF#16, 0x04#8)] with S := 0xFE#8 }
      (fun t => t.pc = 0x0605#16 ∧ t.S = 0x00#8 ∧ t.P = 0x00#8) := by
  decide

/-- V-CF-18: `RTS` (0xFFFF + 1 wraps to 0x0000). -/
theorem test_V_CF_18_rts :
    after { code 0x0610#16 [0x60#8] [(0x01FE#16, 0xFF#8), (0x01FF#16, 0xFF#8)] with S := 0xFD#8 }
      (fun t => t.pc = 0x0000#16 ∧ t.S = 0xFF#8 ∧ t.P = 0x00#8) := by
  decide


/-! ### Transfers (47_transfer.md) -/

/-- V-TR-01: `TAX`. -/
theorem test_V_TR_01_tax :
    after { code 0x0600#16 [0xAA#8] [] with A := 0x80#8, X := 0x01#8 }
      (fun t => t.pc = 0x0601#16 ∧ t.X = 0x80#8 ∧ t.P = 0x80#8) := by
  decide

/-- V-TR-02: `TAX`. -/
theorem test_V_TR_02_tax :
    after { code 0x0600#16 [0xAA#8] [] with A := 0x00#8, X := 0x01#8, P := 0x81#8 }
      (fun t => t.pc = 0x0601#16 ∧ t.X = 0x00#8 ∧ t.P = 0x03#8) := by
  decide

/-- V-TR-03: `TAY`. -/
theorem test_V_TR_03_tay :
    after { code 0x0600#16 [0xA8#8] [] with A := 0x00#8, Y := 0x55#8 }
      (fun t => t.pc = 0x0601#16 ∧ t.Y = 0x00#8 ∧ t.P = 0x02#8) := by
  decide

/-- V-TR-04: `TAY`. -/
theorem test_V_TR_04_tay :
    after { code 0x0600#16 [0xA8#8] [] with A := 0x7F#8, P := 0x82#8 }
      (fun t => t.pc = 0x0601#16 ∧ t.Y = 0x7F#8 ∧ t.P = 0x00#8) := by
  decide

/-- V-TR-05: `TXA`. -/
theorem test_V_TR_05_txa :
    after { code 0x0600#16 [0x8A#8] [] with X := 0x7F#8 }
      (fun t => t.pc = 0x0601#16 ∧ t.A = 0x7F#8 ∧ t.P = 0x00#8) := by
  decide

/-- V-TR-06: `TXA`. -/
theorem test_V_TR_06_txa :
    after { code 0x0600#16 [0x8A#8] [] with A := 0xFF#8, X := 0x00#8, P := 0x80#8 }
      (fun t => t.pc = 0x0601#16 ∧ t.A = 0x00#8 ∧ t.P = 0x02#8) := by
  decide

/-- V-TR-07: `TYA`. -/
theorem test_V_TR_07_tya :
    after { code 0x0600#16 [0x98#8] [] with Y := 0xFF#8 }
      (fun t => t.pc = 0x0601#16 ∧ t.A = 0xFF#8 ∧ t.P = 0x80#8) := by
  decide

/-- V-TR-08: `TSX`. -/
theorem test_V_TR_08_tsx :
    after { code 0x0600#16 [0xBA#8] [] with S := 0xFD#8 }
      (fun t => t.pc = 0x0601#16 ∧ t.X = 0xFD#8 ∧ t.P = 0x80#8) := by
  decide

/-- V-TR-09: `TSX` (S as after reset). -/
theorem test_V_TR_09_tsx :
    after { code 0x0600#16 [0xBA#8] [] with X := 0x33#8, S := 0x00#8 }
      (fun t => t.pc = 0x0601#16 ∧ t.X = 0x00#8 ∧ t.P = 0x02#8) := by
  decide

/-- V-TR-10: `TXS` (no flag changes). -/
theorem test_V_TR_10_txs :
    after { code 0x0600#16 [0x9A#8] [] with X := 0xFF#8, P := 0x80#8 }
      (fun t => t.pc = 0x0601#16 ∧ t.S = 0xFF#8 ∧ t.P = 0x80#8) := by
  decide

/-- V-TR-11: `TXS` (Z stays 0 though the value is zero). -/
theorem test_V_TR_11_txs :
    after { code 0x0600#16 [0x9A#8] [] with X := 0x00#8, S := 0x7F#8, P := 0x00#8 }
      (fun t => t.pc = 0x0601#16 ∧ t.S = 0x00#8 ∧ t.P = 0x00#8) := by
  decide


/-! ### Flag set and halt (48_flag_set_halt.md) -/

/-- V-FL-01: `SEC`. -/
theorem test_V_FL_01_sec :
    after { code 0x0600#16 [0x38#8] [] with P := 0x02#8 }
      (fun t => t.pc = 0x0601#16 ∧ t.P = 0x03#8) := by
  decide

/-- V-FL-02: `SEC` (idempotent). -/
theorem test_V_FL_02_sec :
    after { code 0x0600#16 [0x38#8] [] with P := 0x01#8 }
      (fun t => t.pc = 0x0601#16 ∧ t.P = 0x01#8) := by
  decide

/-- V-FL-03: `SEI`. -/
theorem test_V_FL_03_sei :
    after { code 0x0600#16 [0x78#8] [] with P := 0x00#8 }
      (fun t => t.pc = 0x0601#16 ∧ t.P = 0x04#8) := by
  decide

/-- V-FL-04: `SEI`. -/
theorem test_V_FL_04_sei :
    after { code 0x0600#16 [0x78#8] [] with P := 0xFB#8 }
      (fun t => t.pc = 0x0601#16 ∧ t.P = 0xFF#8) := by
  decide

/-- V-FL-05: `SED`. -/
theorem test_V_FL_05_sed :
    after { code 0x0600#16 [0xF8#8] [] with P := 0x00#8 }
      (fun t => t.pc = 0x0601#16 ∧ t.P = 0x08#8) := by
  decide

/-- V-FL-06: `SED` (idempotent). -/
theorem test_V_FL_06_sed :
    after { code 0x0600#16 [0xF8#8] [] with P := 0x08#8 }
      (fun t => t.pc = 0x0601#16 ∧ t.P = 0x08#8) := by
  decide

/-- V-FL-07: `NOP`. -/
theorem test_V_FL_07_nop :
    after { code 0x0600#16 [0xEA#8] [] with A := 0x12#8, X := 0x34#8, Y := 0x56#8, S := 0x78#8, P := 0xFF#8 }
      (fun t => t.pc = 0x0601#16 ∧ t.P = 0xFF#8 ∧ t.mode = .halted) := by
  decide

/-- V-FL-08: `NOP` (the last byte that can be executed). -/
theorem test_V_FL_08_nop :
    after (code 0xFFFE#16 [0xEA#8] [])
      (fun t => t.pc = 0xFFFF#16 ∧ t.P = 0x00#8 ∧ t.mode = .halted) := by
  decide


/-! ### Fetch and faults (60_exceptions.md) -/

/-- V-FT-01: illegal byte 0x02. -/
theorem test_V_FT_01_illegal :
    after { code 0x0600#16 [0x02#8] [] with A := 0x12#8, X := 0x34#8, Y := 0x56#8, S := 0x78#8, P := 0xC3#8 }
      (fun t => t.pc = 0x0601#16 ∧ t.P = 0xC3#8 ∧ t.mode = .faulted ∧ t.fault = some (.unknownOpcode 0x02#8 0x0600#16)) := by
  decide

/-- V-FT-08: illegal byte 0xFF at 0xFFFE. -/
theorem test_V_FT_08_illegal :
    after (code 0xFFFE#16 [0xFF#8] [])
      (fun t => t.pc = 0xFFFF#16 ∧ t.P = 0x00#8 ∧ t.mode = .faulted ∧ t.fault = some (.unknownOpcode 0xFF#8 0xFFFE#16)) := by
  decide

/-- V-FT-10: an illegal byte at 0xFFFF: PcOverrun, not UnknownOpcode. -/
theorem test_V_FT_10_illegal :
    after (code 0xFFFF#16 [0x02#8] [])
      (fun t => t.pc = 0xFFFF#16 ∧ t.P = 0x00#8 ∧ t.mode = .faulted ∧ t.fault = some (.pcOverrun 0xFFFF#16)) := by
  decide

/-- V-FT-11: `LDX #$02` (operand byte at 0xFFFF). -/
theorem test_V_FT_11_ldxImm :
    after { code 0xFFFE#16 [0xA2#8, 0x02#8] [] with X := 0x09#8 }
      (fun t => t.pc = 0xFFFF#16 ∧ t.P = 0x00#8 ∧ t.mode = .faulted ∧ t.fault = some (.pcOverrun 0xFFFF#16)) := by
  decide

/-- V-FT-13: `JMP $xx34` (low operand byte at 0xFFFF; no jump). -/
theorem test_V_FT_13_jmpAbs :
    after (code 0xFFFE#16 [0x4C#8, 0x34#8] [])
      (fun t => t.pc = 0xFFFF#16 ∧ t.P = 0x00#8 ∧ t.mode = .faulted ∧ t.fault = some (.pcOverrun 0xFFFF#16)) := by
  decide

/-! ## Host sequences, from 95_test_vectors.md parts 1 and 3 -/

/-- S6: LDA #$42 and the halt opcode from 0xFFFC. -/
theorem test_S6_load_immediate :
    (runWithin 2 (code 0xFFFC#16 [0xA9#8, 0x42#8, 0xEA#8] [])).map
      (fun t => (t.A, t.P, t.pc, t.mode)) = some (0x42#8, 0x00#8, 0xFFFF#16, .halted) := by
  decide

/-- S7: the zero flag and its rendering. -/
theorem test_S7_zero_flag :
    (runWithin 2 (code 0xFFFC#16 [0xA9#8, 0x00#8, 0xEA#8] [])).map
      (fun t => (renderChars t.P, t.mode)) = some (['0', '0', '0', '0', '0', '0', '1', '0'], .halted) := by
  decide

/-- S10: reset with the entry address 0x0600. -/
theorem test_S10_reset_with_entry :
    (State.powerOn.hostResetEntry 0x0600#16).map
      (fun t => (t.pc, t.readByte 0xFFFC#16, t.readByte 0xFFFD#16, t.mode)) =
      some (0x0600#16, 0x00#8, 0x06#8, .running) := by
  decide

/-- A host word at 0xFFFF has its high byte at 0x0000 (the spec's decision D7). -/
theorem test_host_word_at_the_top :
    (State.powerOn.hostWriteWord 0xFFFF#16 0x1234#16).readByte 0x0000#16 = 0x12#8 ∧
    (State.powerOn.hostWriteWord 0xFFFF#16 0x1234#16).hostReadWord 0xFFFF#16 = 0x1234#16 := by
  decide

/-! ## Witnesses: states that meet the hypotheses of the statements -/

/-- A machine that ran into an illegal byte at 0x0600. -/
def faultedState : State :=
  { code 0x0601#16 [] [(0x0600#16, 0x02#8)] with
    mode := .faulted, fault := some (.unknownOpcode 0x02#8 0x0600#16) }

theorem witness_ByteWriteChangesOneByteOnly :
    (0xFFFF#16 : Addr) ≠ 0x0000#16 ∧ (code 0xFFFE#16 [] []).pc = 0xFFFE#16 ∧ (0xFFFE#16 : Addr) ≠ 0xFFFF#16 := by
  decide

/-- At 0xFFFF and below it, for WordRead, WordWrite and the host's accesses. -/
theorem witness_WordRead_WordWrite_and_HostAccesses :
    ((0x0000#16 : Addr).toNat = ((0xFFFF#16 : Addr).toNat + 1) % 65536) ∧
    ((0x1235#16 : Addr).toNat = ((0x1234#16 : Addr).toNat + 1) % 65536) ∧
    (0x0001#16 : Addr) ≠ 0xFFFF#16 ∧ (0x0001#16 : Addr) ≠ 0x0000#16 := by
  decide

theorem witness_CanonicalMemoriesThatReadAlikeAreEqual :
    Memory.wf [(16, 0x42#8), (65535, 0x01#8)] = true ∧ Memory.wf (State.powerOn.writeByte 0xFFFF#16 0x01#8).mem = true ∧
    ∀ a : Addr, Memory.lookup [(16, 0x42#8)] a.toNat = Memory.lookup (State.powerOn.writeByte 0x0010#16 0x42#8).mem a.toNat :=
  ⟨rfl, rfl, fun _ => rfl⟩

theorem witness_OneFlagWriteLeavesTheOtherSevenBits : (0 : Nat) < 8 ∧ 7 < 8 ∧ 7 ≠ Flag.bit .C ∧ 0 ≠ Flag.bit .N := by
  decide

/-- PLA meets every premise at once: it is none of PLP, SEI, SED, SEC, LSR. -/
theorem witness_FlagsChangeOnlyByTheirOwnInstructions :
    ∃ t, exec .pla State.powerOn = .next t ∧ Instr.pla ≠ .plp ∧ Instr.pla ≠ .sei ∧ Instr.pla ≠ .sed ∧
      Instr.pla ≠ .sec ∧ Instr.pla.mnemonic ≠ .lsr :=
  ⟨_, rfl, by decide, by decide, by decide, by decide, by decide⟩

theorem witness_EveryRegisterWriteSetsZAndN :
    (∃ t, exec .lsrAcc State.powerOn = .next t ∧ writesA .lsrAcc) ∧
    (∃ t, exec (.ldaImm 0x80#8) State.powerOn = .next t ∧ writesA (.ldaImm 0x80#8)) ∧
    (∃ t, exec .tsx State.powerOn = .next t ∧ writesX .tsx) ∧
    (∃ t, exec .tay State.powerOn = .next t ∧ writesY .tay) :=
  ⟨⟨_, rfl, .inl rfl⟩, ⟨_, rfl, .inr (by decide)⟩,
    ⟨_, rfl, (by decide : Mnemonic.tsx ∈ [Mnemonic.ldx, .tax, .tsx])⟩, ⟨_, rfl, (by decide : Mnemonic.tay ∈ [Mnemonic.ldy, .tay])⟩⟩

theorem witness_FlagsSteerNothing :
    (∃ t, (code 0x0600#16 [0x4A#8] []).mode = .running ∧ step (code 0x0600#16 [0x4A#8] []) = .next t ∧
      (code 0x0600#16 [0x4A#8] []).readByte 0x0600#16 ≠ 0x08#8) ∧
    (∃ t, (code 0x0600#16 [0x08#8] []).mode = .running ∧ step (code 0x0600#16 [0x08#8] []) = .next t ∧
      (code 0x0600#16 [0x08#8] []).readByte 0x0600#16 = 0x08#8 ∧ (0x00FF#16 : Addr) ≠ cell 0x00#8) :=
  ⟨⟨_, rfl, rfl, by decide⟩, ⟨_, rfl, rfl, rfl, by decide⟩⟩

theorem witness_LsrShiftsRightInPlace : (0x0101#16 : Addr) ≠ eaZpx 0xFF#8 { State.powerOn with X := 0x01#8 } := by
  decide

theorem witness_StackIsLastInFirstOutWithinItsPage :
    (List.replicate 256 0xA5#8).length ≤ 256 ∧ (List.replicate 256 0xA5#8).length = 256 ∧
    ¬(0x0100 ≤ (0x00FF#16 : Addr).toNat ∧ (0x00FF#16 : Addr).toNat ≤ 0x01FF) ∧
    ¬(0x0100 ≤ (0x0200#16 : Addr).toNat ∧ (0x0200#16 : Addr).toNat ≤ 0x01FF) := by
  refine ⟨?_, ?_, by decide, by decide⟩ <;> rw [List.length_replicate]

theorem witness_JumpIndirectStaysInThePointersPage :
    ((0x3000#16 : Addr).toNat = if (0x30FF#16 : Addr).toNat % 256 = 255 then (0x30FF#16 : Addr).toNat - 255
      else (0x30FF#16 : Addr).toNat + 1) ∧
    ((0x30FF#16 : Addr).toNat = if (0x30FE#16 : Addr).toNat % 256 = 255 then (0x30FE#16 : Addr).toNat - 255
      else (0x30FE#16 : Addr).toNat + 1) ∧
    ((0xFF00#16 : Addr).toNat = if (0xFFFF#16 : Addr).toNat % 256 = 255 then (0xFFFF#16 : Addr).toNat - 255
      else (0xFFFF#16 : Addr).toNat + 1) := by
  decide

theorem witness_JsrPushesItsLastByteAddressAndJumps :
    (0x0200#16 : Addr) ≠ cell 0x00#8 ∧ (0x0200#16 : Addr) ≠ cell (0x00#8 - 1) := by
  decide

/-- SEC meets every premise at once; LSR $10 is a storing form with a byte outside its store. -/
theorem witness_InstructionsLeaveTheRestUnchanged :
    (∃ t, exec .sec State.powerOn = .next t ∧ ¬writesA .sec ∧ ¬writesX .sec ∧ ¬writesY .sec ∧
      Instr.mnemonic .sec ∉ [.pha, .php, .pla, .plp, .jsr, .rts, .txs] ∧ Instr.mnemonic .sec ∉ [.jmp, .jsr, .rts] ∧
      Instr.sec ≠ .nop ∧ (0x0000#16 : Addr) ∉ storesAt .sec State.powerOn) ∧
    (∃ t, exec (.lsrZp 0x10#8) State.powerOn = .next t ∧ (0x0011#16 : Addr) ∉ storesAt (.lsrZp 0x10#8) State.powerOn) ∧
    (∃ t, exec (.jsr 0x0600#16) State.powerOn = .next t ∧ (0x00FF#16 : Addr) ∉ storesAt (.jsr 0x0600#16) State.powerOn) := by
  refine ⟨⟨_, rfl, ?_, ?_, ?_, by decide, by decide, by decide, by decide⟩, ⟨_, rfl, by decide⟩, ⟨_, rfl, by decide⟩⟩
  · rintro (h | h)
    · exact absurd h (by decide)
    · exact absurd h (by decide)
  · exact (by decide : Mnemonic.sec ∉ [Mnemonic.ldx, .tax, .tsx])
  · exact (by decide : Mnemonic.sec ∉ [Mnemonic.ldy, .tay])

theorem witness_DecodeAndEncodeAgree :
    decode [0xA9#8, 0x42#8, 0xEA#8] = .instr (.ldaImm 0x42#8) [0xEA#8] := by
  decide

/-- The last place a three-byte instruction may stand: its last byte at 0xFFFE. -/
theorem witness_StepRunsTheDecodedInstruction_and_PcMovesPastTheInstruction :
    (code 0xFFFC#16 [0xAD#8, 0x34#8, 0x12#8] []).mode = .running ∧
    decode ((code 0xFFFC#16 [0xAD#8, 0x34#8, 0x12#8] []).readBytes 0xFFFC#16 3) = .instr (.ldaAbs 0x1234#16) [] ∧
    (0xFFFC#16 : Addr).toNat + Instr.length (.ldaAbs 0x1234#16) ≤ 0xFFFF ∧
    Instr.mnemonic (.ldaAbs 0x1234#16) ∉ [.jmp, .jsr, .rts] := by
  decide

theorem witness_StepOfARunningMachineHasFourOutcomes : State.reset.mode = .running ∧ State.reset.fault = none :=
  ⟨rfl, rfl⟩

theorem witness_UnknownOpcodeStopsTheMachine :
    (code 0xFFFE#16 [0xFF#8] []).mode = .running ∧ (code 0xFFFE#16 [0xFF#8] []).pc ≠ 0xFFFF#16 ∧
    (code 0xFFFE#16 [0xFF#8] []).readByte 0xFFFE#16 ∉ legalOpcodes := by
  decide

/-- Each clause of PcOverrunStopsTheMachine, at each pc it speaks of. -/
theorem witness_PcOverrunStopsTheMachine :
    ((code 0xFFFF#16 [0xEA#8] []).mode = .running ∧ (code 0xFFFF#16 [0xEA#8] []).pc.toNat = 0xFFFF) ∧
    ((code 0xFFFE#16 [0xA9#8] []).mode = .running ∧ (code 0xFFFE#16 [0xA9#8] []).pc.toNat = 0xFFFE ∧
      (code 0xFFFE#16 [0xA9#8] []).readByte 0xFFFE#16 ∈ twoByteOpcodes) ∧
    ((code 0xFFFD#16 [0x4C#8] []).mode = .running ∧ 0xFFFD ≤ (code 0xFFFD#16 [0x4C#8] []).pc.toNat ∧
      (code 0xFFFD#16 [0x4C#8] []).readByte 0xFFFD#16 ∈ threeByteOpcodes) ∧
    (0xFFFD ≤ (code 0xFFFE#16 [0x4C#8] []).pc.toNat ∧
      (code 0xFFFE#16 [0x4C#8] []).readByte 0xFFFE#16 ∈ threeByteOpcodes) ∧
    (0xFFFD ≤ (code 0xFFFF#16 [0x4C#8] []).pc.toNat ∧
      (code 0xFFFF#16 [0x4C#8] []).readByte 0xFFFF#16 ∈ threeByteOpcodes) := by
  decide

theorem witness_FaultsArePrecise :
    (∃ t, step (code 0xFFFD#16 [0x4E#8, 0x10#8] []) = .next t ∧ t.mode = .faulted) ∧
    (∃ t, step (code 0xFFFE#16 [0x02#8] []) = .next t ∧ t.mode = .faulted) :=
  ⟨⟨_, rfl, rfl⟩, ⟨_, rfl, rfl⟩⟩

theorem witness_FetchesReadAtPcAndAdvanceIt :
    (code 0xFFFE#16 [] []).pc.toNat < 0xFFFF ∧ (code 0xFFFF#16 [] []).pc.toNat = 0xFFFF ∧
    (code 0xFFFD#16 [] []).pc.toNat < 0xFFFE ∧ 0xFFFE ≤ (code 0xFFFE#16 [] []).pc.toNat ∧
    0xFFFE ≤ (code 0xFFFF#16 [] []).pc.toNat := by
  decide

theorem witness_HaltedAndFaultedMachinesTakeNoStep : State.powerOn.mode = .halted ∧ faultedState.mode = .faulted :=
  ⟨rfl, rfl⟩

theorem witness_EveryStepKeepsTheInvariant : MachineInv State.reset ∧ ∃ t, step State.reset = .next t :=
  ⟨⟨rfl, (by decide : State.reset.mode ≠ .faulted)⟩, _, rfl⟩

/-- A state of the invariant other than the reset state: a faulted one, with its record. -/
theorem witness_MachineInv_faulted : MachineInv faultedState :=
  ⟨by decide, rfl, rfl, by decide, rfl⟩

theorem witness_HostOperationsKeepTheInvariant :
    MachineInv State.powerOn ∧ (∃ t, State.powerOn.hostReset = some t) ∧
    (∃ t, State.powerOn.hostResetEntry 0x0600#16 = some t) ∧ (∃ t, HostRunEnds State.powerOn t) :=
  ⟨⟨rfl, (by decide : State.powerOn.mode ≠ .faulted)⟩, ⟨_, rfl⟩, ⟨_, rfl⟩, ⟨_, 1, rfl⟩⟩

theorem witness_Resets :
    State.powerOn.mode ≠ .faulted ∧ State.reset.mode ≠ .faulted ∧ State.powerOn.mem.wf = true ∧
    (0xFFFE#16 : Addr) ≠ 0xFFFC#16 ∧ (0xFFFE#16 : Addr) ≠ 0xFFFD#16 := by
  decide

theorem witness_RunEndsExactlyWhereSteppingStops :
    RunEnds State.powerOn State.powerOn ∧ ∃ t, RunEnds State.reset t :=
  ⟨⟨0, rfl⟩, _, 1, rfl⟩

theorem witness_ARunThatHaltsEndsOnTheHaltOpcode :
    ∃ t, (code 0xFFFE#16 [0xEA#8] []).mode ≠ .faulted ∧ HostRunEnds (code 0xFFFE#16 [0xEA#8] []) t ∧ t.mode = .halted :=
  ⟨_, by decide, ⟨1, rfl⟩, rfl⟩

theorem witness_AJumpToItselfNeverEnds :
    (code 0xFFFC#16 [0x4C#8, 0xFC#8, 0xFF#8] []).mode ≠ .faulted ∧
    (code 0xFFFC#16 [0x4C#8, 0xFC#8, 0xFF#8] []).pc.toNat ≤ 0xFFFC ∧
    (code 0xFFFC#16 [0x4C#8, 0xFC#8, 0xFF#8] []).readByte 0xFFFC#16 = 0x4C#8 ∧
    ((code 0xFFFC#16 [0x4C#8, 0xFC#8, 0xFF#8] []).readByte (0xFFFC#16 + 1)).toNat = (0xFFFC#16 : Addr).toNat % 256 ∧
    ((code 0xFFFC#16 [0x4C#8, 0xFC#8, 0xFF#8] []).readByte (0xFFFC#16 + 2)).toNat = (0xFFFC#16 : Addr).toNat / 256 := by
  decide

end Sys2Proof.Tests
end

section
/-! The rendering of P (10_state.md R42): the bit positions are counted down, so the character at place
7 - n is bit n, and the string holds exactly these characters. -/

namespace Sys2Proof.Machine

@[simp] theorem renderChars_length (p : Byte) : (renderChars p).length = 8 := by
  simp [renderChars]

@[simp] theorem render_toList (p : Byte) : (render p).toList = renderChars p := by
  simp [render]

/-- The places of the characters are the bit positions read backwards. -/
theorem renderChars_eq_map_reverse_range (p : Byte) :
    renderChars p = (List.range 8).reverse.map (bitChar p) := rfl

theorem renderChars_getElem?_seven_sub (p : Byte) {n : Nat} (hn : n < 8) :
    (renderChars p)[7 - n]? = some (bitChar p n) := by
  have hplace : 8 - 1 - (7 - n) = n := by omega
  rw [renderChars_eq_map_reverse_range, List.getElem?_map,
    List.getElem?_reverse (by rw [List.length_range]; omega), List.length_range, hplace,
    List.getElem?_range hn, Option.map_some]

/-- Settles O7: place 7 - n of the characters is bit n, and the two bytes of the rule are evaluated. -/
theorem renderingShowsBitSevenFirst : Obligations.RenderingShowsBitSevenFirst := by
  refine ⟨fun p => ⟨renderChars_length p, fun n hn => ?_⟩, render_toList, ?_, ?_⟩
  · exact renderChars_getElem?_seven_sub p hn
  · decide
  · decide

end Sys2Proof.Machine
end

section
/-! The byte write (20_memory.md R52): a read after it is decided by whether the address is the one
written, and a fetch below 0xFFFF is a read at pc, so it sees the byte too. -/

namespace Sys2Proof.Machine

@[simp] theorem State.readByte_writeByte_self (s : State) (a : Addr) (v : Byte) :
    (s.writeByte a v).readByte a = v := by
  rw [State.readByte_writeByte, if_pos rfl]

theorem State.readByte_writeByte_of_ne (s : State) {a j : Addr} (v : Byte) (hj : j ≠ a) :
    (s.writeByte a v).readByte j = s.readByte j := by
  rw [State.readByte_writeByte, if_neg hj]

/-- Address 0xFFFF is left out because FetchByte raises PcOverrun there (40_fetch_dispatch.md R100). -/
theorem State.fetchByte_writeByte_pc (s : State) (v : Byte) (htop : s.pc ≠ Config.topAddress) :
    (s.writeByte s.pc v).fetchByte = .got v ((s.writeByte s.pc v).advance 1) := by
  have hne : s.pc.toNat ≠ 0xFFFF := mt s.pc_eq_top_iff.mpr htop
  have hlt : (s.writeByte s.pc v).pc.toNat < 0xFFFF := by rw [State.writeByte_pc]; omega
  rw [State.fetchByte_got hlt, State.writeByte_pc, State.readByte_writeByte_self]

theorem State.writeByte_with_mem (s : State) (a : Addr) (v : Byte) :
    { s.writeByte a v with mem := s.mem } = s := rfl

/-- Settles O1, from what a read and a fetch return after a byte write. -/
theorem byteWriteChangesOneByteOnly : Obligations.ByteWriteChangesOneByteOnly := by
  intro s a v
  refine ⟨s.readByte_writeByte_self a v, ?_, fun j hj => s.readByte_writeByte_of_ne v hj,
    s.writeByte_with_mem a v⟩
  rintro rfl htop
  exact ⟨_, s.fetchByte_writeByte_pc v htop⟩

end Sys2Proof.Machine
end

section
/-! The run loop (40_fetch_dispatch.md R104): a run stops at once where the mode is not Running and otherwise
goes on from the step's next state, so its end does not depend on the bound it was found with. -/

namespace Sys2Proof.Machine

theorem running_of_step_next {s t : State} (h : step s = .next t) : s.mode = .running :=
  (step_cases h).1

theorem runWithin_of_not_running {s : State} (n : Nat) (hs : s.mode ≠ .running) : runWithin n s = some s := by
  cases n with
  | zero => exact if_neg hs
  | succ n => exact if_neg hs

theorem runWithin_succ_of_next {s u : State} (n : Nat) (h : step s = .next u) :
    runWithin (n + 1) s = runWithin n u := by
  simp only [runWithin, running_of_step_next h, if_true, h]

/-- A run that has ended within a bound was at its end already, or took a step and ended within one less. -/
theorem runWithin_cases {n : Nat} {s t : State} (h : runWithin n s = some t) :
    (s.mode ≠ .running ∧ t = s) ∨ ∃ m u, n = m + 1 ∧ step s = .next u ∧ runWithin m u = some t := by
  by_cases hs : s.mode = .running
  · right
    cases n with
    | zero => simp [runWithin, hs] at h
    | succ m =>
      cases hstep : step s with
      | next u => exact ⟨m, u, rfl, rfl, (runWithin_succ_of_next m hstep).symm.trans h⟩
      | fault r => simp [runWithin, hs, hstep] at h
      | refused r => simp [runWithin, hs, hstep] at h
  · rw [runWithin_of_not_running n hs] at h
    exact .inl ⟨hs, (Option.some.inj h).symm⟩

theorem runEnds_iff_of_not_running {s t : State} (hs : s.mode ≠ .running) : RunEnds s t ↔ t = s := by
  simp only [RunEnds, runWithin_of_not_running _ hs, exists_const, Option.some.injEq, eq_comm]

theorem runEnds_iff_of_next {s u t : State} (h : step s = .next u) : RunEnds s t ↔ RunEnds u t := by
  constructor
  · rintro ⟨n, hn⟩
    obtain ⟨hs, -⟩ | ⟨m, u', -, hstep, hm⟩ := runWithin_cases hn
    · exact absurd (running_of_step_next h) hs
    · cases h.symm.trans hstep
      exact ⟨m, hm⟩
  · rintro ⟨n, hn⟩
    exact ⟨n + 1, (runWithin_succ_of_next n h).trans hn⟩

theorem reaches_not_running_of_runWithin {n : Nat} {s t : State} (h : runWithin n s = some t) :
    Reaches s t ∧ t.mode ≠ .running := by
  induction n generalizing s with
  | zero =>
    obtain ⟨hs, rfl⟩ | ⟨m, u, hm, -, -⟩ := runWithin_cases h
    · exact ⟨.here t, hs⟩
    · cases hm
  | succ n ih =>
    obtain ⟨hs, rfl⟩ | ⟨m, u, hm, hstep, hrun⟩ := runWithin_cases h
    · exact ⟨.here t, hs⟩
    · cases hm
      obtain ⟨hreach, ht⟩ := ih hrun
      exact ⟨.later s u t hstep hreach, ht⟩

theorem runEnds_of_reaches {s t : State} (h : Reaches s t) (ht : t.mode ≠ .running) : RunEnds s t := by
  induction h with
  | here s => exact (runEnds_iff_of_not_running ht).mpr rfl
  | later s u t hstep _ ih => exact (runEnds_iff_of_next hstep).mpr (ih ht)

theorem runEnds_iff_reaches {s t : State} : RunEnds s t ↔ Reaches s t ∧ t.mode ≠ .running :=
  ⟨fun ⟨_, hn⟩ => reaches_not_running_of_runWithin hn, fun ⟨hreach, ht⟩ => runEnds_of_reaches hreach ht⟩

/-- By induction on the steps to the one end: the other run takes the same steps and stops at the same state. -/
theorem RunEnds.unique {s t u : State} (ht : RunEnds s t) (hu : RunEnds s u) : t = u := by
  obtain ⟨hreach, hstop⟩ := runEnds_iff_reaches.mp ht
  clear ht
  induction hreach with
  | here s => exact ((runEnds_iff_of_not_running hstop).mp hu).symm
  | later s v t hstep _ ih => exact ih ((runEnds_iff_of_next hstep).mp hu) hstop

/-- Settles O48: the ends of a run are the stopped states reached by steps, and two ends are equal. -/
theorem runEndsExactlyWhereSteppingStops : Obligations.RunEndsExactlyWhereSteppingStops :=
  ⟨fun _ _ => runEnds_iff_reaches, fun _ _ _ => RunEnds.unique⟩

end Sys2Proof.Machine
end

section
/-! The word write (20_memory.md R54) and the reset with an entry address, which is a word write at the
reset vector read back into pc (70_reset_and_hazards.md R282): the word read back is the word written. -/

namespace Sys2Proof.Machine

/-- The second cell of a word is never its first one, 0xFFFF included. -/
theorem Addr.ne_add_one (a : Addr) : a ≠ a + 1 := by
  bv_omega

@[simp] theorem State.readByte_writeWord_low (s : State) (a v : Addr) :
    (s.writeWord a v).readByte a = lowByte v := by
  rw [State.readByte_writeWord, if_neg (Addr.ne_add_one a), if_pos rfl]

@[simp] theorem State.readByte_writeWord_high (s : State) (a v : Addr) :
    (s.writeWord a v).readByte (a + 1) = highByte v := by
  rw [State.readByte_writeWord, if_pos rfl]

theorem State.readByte_writeWord_of_ne (s : State) {a j : Addr} (v : Addr) (hlow : j ≠ a) (hhigh : j ≠ a + 1) :
    (s.writeWord a v).readByte j = s.readByte j := by
  rw [State.readByte_writeWord, if_neg hhigh, if_neg hlow]

@[simp] theorem State.readWord_writeWord_self (s : State) (a v : Addr) : (s.writeWord a v).readWord a = v := by
  rw [State.readWord, State.readByte_writeWord_low, State.readByte_writeWord_high, joinBytes_high_low]

/-- The state of a machine that is not Faulted after `Reset(e)`: the state of `Reset()` with the entry
written to the vector and pc at the entry. -/
def State.resetTo (s : State) (e : Addr) : State :=
  { s.resetRegisters.writeWord Config.resetVector e with pc := e }

theorem State.hostResetEntry_eq_resetTo {s : State} (e : Addr) (hs : s.mode ≠ .faulted) :
    s.hostResetEntry e = some (s.resetTo e) := by
  simp only [State.hostResetEntry, if_neg hs, State.readWord_writeWord_self, State.resetTo]

/-- Neither setting pc nor the reset of the registers touches memory (70_reset_and_hazards.md R281). -/
theorem State.readByte_resetTo (s : State) (e j : Addr) :
    (s.resetTo e).readByte j = (s.writeWord Config.resetVector e).readByte j := rfl

/-- Settles O46: the state after the reset is `resetTo`, whose memory is that of one word write. -/
theorem resetWithEntryWritesTheVectorAndStartsThere :
    Obligations.ResetWithEntryWritesTheVectorAndStartsThere := by
  intro s e hs
  have hlow : (s.resetTo e).readByte 0xFFFC#16 = lowByte e := s.readByte_writeWord_low _ e
  have hhigh : (s.resetTo e).readByte 0xFFFD#16 = highByte e := s.readByte_writeWord_high Config.resetVector e
  refine ⟨s.resetTo e, s.hostResetEntry_eq_resetTo e hs, rfl, ?_, ?_, ?_, rfl, rfl, rfl, rfl, rfl, rfl, rfl⟩
  · rw [hlow, lowByte_toNat]
  · rw [hhigh, highByte_toNat]
  · intro a hfirst hsecond
    rw [State.readByte_resetTo]
    exact s.readByte_writeWord_of_ne e hfirst hsecond

end Sys2Proof.Machine
end

section
/-! The dump (70_reset_and_hazards.md R288): its 16-bit stack pointer is a sum that never wraps, and its
flags are the rendering of 10_state.md R42. -/

namespace Sys2Proof.Machine

/-- The sum is at most 0x01FF. -/
theorem State.dump_sp16_toNat (s : State) : s.dump.sp16.toNat = 0x0100 + s.S.toNat := by
  have hS := s.S.isLt
  simp only [State.dump, BitVec.toNat_add, BitVec.toNat_setWidth, BitVec.toNat_ofNat]
  omega

theorem State.dump_flags (s : State) : s.dump.flags = render s.P := rfl

/-- Settles O51: five items are read off the state as they are, the flags are the rendering of P, and the
stack pointer is the sum as a number. -/
theorem dumpShowsTheSevenItems : Obligations.DumpShowsTheSevenItems :=
  fun s => ⟨rfl, s.dump_sp16_toNat, rfl, rfl, rfl, s.dump_flags, rfl⟩

end Sys2Proof.Machine
end

section
/-! The decoder and the encoder (30_encoding.md R80 to R86): the opcode map is read through two facts,
the entry under an instruction's opcode makes the instruction (`opcodeEntry_opcodeOf`) and every entry
makes only instructions of its opcode (`entrySound_of_opcodeEntry`). -/

namespace Sys2Proof

open Claims

/-- The decoder looks at nothing behind the encoding. -/
theorem decode_encode_append (i : Instr) (rest : List Byte) : decode (encode i ++ rest) = .instr i rest := by
  obtain ⟨hops, hentry⟩ | ⟨b, make, hops, hentry, hmake⟩ | ⟨w, make, hops, hentry, hmake⟩ :=
    opcodeEntry_opcodeOf i
  · simp [encode, decode, hops, hentry]
  · simp [encode, decode, hops, hentry, hmake]
  · simp [encode, decode, hops, hentry, hmake]

theorem eq_encode_append_of_decode {bytes rest : List Byte} {i : Instr} (h : decode bytes = .instr i rest) :
    bytes = encode i ++ rest := by
  cases bytes with
  | nil => cases h
  | cons op tail =>
    rw [decode] at h
    cases hentry : opcodeEntry op with
    | none => simp [hentry] at h
    | some e =>
      have hsound := entrySound_of_opcodeEntry hentry
      rw [hentry] at h
      cases e with
      | implied j =>
        cases h
        exact congrArg (· ++ rest) hsound.symm
      | byteOperand make =>
        cases tail with
        | nil => cases h
        | cons b tail =>
          cases h
          exact congrArg (· ++ rest) (hsound b).symm
      | wordOperand make =>
        rcases tail with _ | ⟨lo, _ | ⟨hi, tail⟩⟩
        · cases h
        · cases h
        · cases h
          have henc := hsound (joinBytes hi lo)
          rw [lowByte_joinBytes, highByte_joinBytes] at henc
          exact congrArg (· ++ rest) henc.symm

/-- Settles O30: one direction by the entry under the opcode of each instruction, the other by the
soundness of every entry of the map. -/
theorem decodeAndEncodeAgree : Obligations.DecodeAndEncodeAgree :=
  ⟨decode_encode_append, fun _ _ _ => eq_encode_append_of_decode⟩

/-- The opcode of every instruction is on the written-out list. -/
theorem opcodeOf_mem_legalOpcodes (i : Instr) : opcodeOf i ∈ legalOpcodes := by
  cases i <;> simp [opcodeOf, legalOpcodes, oneByteOpcodes, twoByteOpcodes, threeByteOpcodes]

theorem oneByteOpcodes_operandCount :
    ∀ op ∈ oneByteOpcodes, (opcodeEntry op).map OpcodeEntry.operandCount = some 0 := by decide

theorem twoByteOpcodes_operandCount :
    ∀ op ∈ twoByteOpcodes, (opcodeEntry op).map OpcodeEntry.operandCount = some 1 := by decide

theorem threeByteOpcodes_operandCount :
    ∀ op ∈ threeByteOpcodes, (opcodeEntry op).map OpcodeEntry.operandCount = some 2 := by decide

/-- An entry of the map stands under the opcode of an instruction: the one it makes. -/
theorem EntrySound.exists_opcodeOf {op : Byte} {e : OpcodeEntry} (h : EntrySound op e) : ∃ i, op = opcodeOf i := by
  cases e with
  | implied i => exact ⟨i, (List.head_eq_of_cons_eq h).symm⟩
  | byteOperand make => exact ⟨make 0, (List.head_eq_of_cons_eq (h 0)).symm⟩
  | wordOperand make => exact ⟨make 0, (List.head_eq_of_cons_eq (h 0)).symm⟩

theorem opcodeEntry_ne_none_of_legal {op : Byte} (h : op ∈ legalOpcodes) : opcodeEntry op ≠ none := by
  intro hnone
  rw [legalOpcodes, List.mem_append, List.mem_append] at h
  obtain (h | h) | h := h
  · simpa [hnone] using oneByteOpcodes_operandCount op h
  · simpa [hnone] using twoByteOpcodes_operandCount op h
  · simpa [hnone] using threeByteOpcodes_operandCount op h

/-- The map has an entry for the 57 opcodes of the list and for no other byte (30_encoding.md R84, R86). -/
theorem opcodeEntry_eq_none_iff (op : Byte) : opcodeEntry op = none ↔ op ∉ legalOpcodes := by
  refine ⟨fun hnone hlegal => opcodeEntry_ne_none_of_legal hlegal hnone, fun hillegal => ?_⟩
  by_contra hsome
  obtain ⟨e, he⟩ := Option.ne_none_iff_exists'.mp hsome
  obtain ⟨i, rfl⟩ := (entrySound_of_opcodeEntry he).exists_opcodeOf
  exact hillegal (opcodeOf_mem_legalOpcodes i)

theorem decode_eq_illegal_iff (op : Byte) (rest : List Byte) :
    decode (op :: rest) = .rejected (.illegalOpcode op) ↔ opcodeEntry op = none := by
  rw [decode]
  rcases opcodeEntry op with _ | ⟨_ | _ | _⟩
  · simp
  · simp
  · cases rest <;> simp
  · rcases rest with _ | ⟨_, _ | _⟩ <;> simp

/-- Settles O31: the map's entries are exactly the 57 opcodes of the list. -/
theorem illegalOpcodesAreExactlyTheOthers : Obligations.IllegalOpcodesAreExactlyTheOthers :=
  ⟨fun op rest => (decode_eq_illegal_iff op rest).trans (opcodeEntry_eq_none_iff op), by decide, rfl⟩

/-- Settles O32, each sample being an encoding followed by nothing. -/
theorem sampleEncodingsDecode : Obligations.SampleEncodingsDecode :=
  ⟨decode_encode_append (.ldaImm 0x42#8) [], decode_encode_append (.ldxAbsy 0x12FF#16) [],
    decode_encode_append (.andIndy 0x40#8) [], decode_encode_append (.oraIndx 0xFE#8) [],
    decode_encode_append (.lsrAbsx 0xFFFF#16) [], decode_encode_append .plp [],
    decode_encode_append (.jmpInd 0x30FF#16) [], decode_encode_append .tsx [],
    decode_encode_append .sed [], decode_encode_append .nop []⟩

end Sys2Proof
end

section
/-! The fetch of an instruction, read forwards: from what stands at pc to what the fetch does
(40_fetch_dispatch.md R100 to R105). `FetchCase` lists everything the fetch can do; each lemma here says which
case it is. -/

namespace Sys2Proof.Machine

open Claims

/-- An instruction is as long as the entry under its opcode says (30_encoding.md R82). -/
theorem length_eq_operandCount_add_one {i : Instr} {e : OpcodeEntry} (h : opcodeEntry (opcodeOf i) = some e) :
    i.length = e.operandCount + 1 := by
  rw [length_eq]
  obtain ⟨hops, hentry⟩ | ⟨b, make, hops, hentry, -⟩ | ⟨w, make, hops, hentry, -⟩ := opcodeEntry_opcodeOf i <;>
  · cases hentry.symm.trans h
    rw [hops]
    rfl

theorem State.readBytes_add (s : State) (a : Addr) (m n : Nat) :
    s.readBytes a (m + n) = s.readBytes a m ++ s.readBytes (a + BitVec.ofNat 16 m) n := by
  induction m generalizing a with
  | zero => simp [State.readBytes]
  | succ m ih =>
    have haddr : a + 1 + BitVec.ofNat 16 m = a + BitVec.ofNat 16 (m + 1) := by
      rw [BitVec.add_assoc, BitVec.ofNat_add, BitVec.add_comm (BitVec.ofNat 16 m)]
      rfl
    rw [Nat.succ_add, State.readBytes, ih, State.readBytes, List.cons_append, haddr]

/-- Where an instruction's encoding stands, the byte at its first address is its opcode. -/
theorem readByte_pc_of_encode {s : State} {i : Instr} (h : encode i = s.readBytes s.pc i.length) :
    s.readByte s.pc = opcodeOf i := by
  rw [length_eq, State.readBytes, encode] at h
  exact (List.head_eq_of_cons_eq h).symm

/-- Bytes at pc that are an instruction's encoding decode to it, with the rest of the three behind it. -/
theorem decode_readBytes_of_encode {s : State} {i : Instr} (h : encode i = s.readBytes s.pc i.length) :
    ∃ rest, decode (s.readBytes s.pc 3) = .instr i rest := by
  have hlen := length_le_three i
  have hsplit := s.readBytes_add s.pc i.length (3 - i.length)
  rw [Nat.add_sub_cancel' hlen, ← h] at hsplit
  exact ⟨_, hsplit ▸ decode_encode_append i _⟩

theorem readByte_pc_of_decode {s : State} {i : Instr} {rest : List Byte}
    (h : decode (s.readBytes s.pc 3) = .instr i rest) : s.readByte s.pc = opcodeOf i :=
  List.head_eq_of_cons_eq (eq_encode_append_of_decode h)

theorem opcodeEntry_opcodeOf_ne_none (i : Instr) : opcodeEntry (opcodeOf i) ≠ none :=
  opcodeEntry_ne_none_of_legal (opcodeOf_mem_legalOpcodes i)

/-- The fetch returns the instruction that the bytes at pc decode to, when its last byte lies below 0xFFFF. -/
theorem State.fetchInstr_of_decode {s : State} {i : Instr} {rest : List Byte}
    (hdec : decode (s.readBytes s.pc 3) = .instr i rest) (hfit : s.pc.toNat + i.length ≤ 0xFFFF) :
    s.fetchInstr = .got i (s.advance i.length) := by
  have hlen := one_le_length i
  have hop := readByte_pc_of_decode hdec
  have hc := s.fetchInstr_cases
  generalize s.fetchInstr = f at hc ⊢
  cases hc with
  | opcodeOverrun h => omega
  | unknown _ hnone => exact absurd (hop ▸ hnone) (opcodeEntry_opcodeOf_ne_none i)
  | operandOverrun e _ hentry hlong =>
    have := length_eq_operandCount_add_one (hop ▸ hentry)
    omega
  | got j _ henc =>
    obtain ⟨rest', hdec'⟩ := decode_readBytes_of_encode henc
    cases hdec.symm.trans hdec'
    rfl

theorem State.fetchInstr_top {s : State} (h : s.pc.toNat = 0xFFFF) : s.fetchInstr = .raised s.overrun := by
  rw [State.fetchInstr, State.fetchByte_top h]

theorem State.fetchInstr_of_illegal {s : State} (h : s.pc.toNat < 0xFFFF)
    (hop : opcodeEntry (s.readByte s.pc) = none) :
    s.fetchInstr = .raised ((s.advance 1).raise (.unknownOpcode (s.readByte s.pc) s.pc)) := by
  rw [State.fetchInstr, State.fetchByte_got h]
  simp only [hop]

/-- An instruction with a byte at 0xFFFF or past it raises PcOverrun, its opcode byte there or an operand's. -/
theorem State.fetchInstr_of_long {s : State} {e : OpcodeEntry} (hop : opcodeEntry (s.readByte s.pc) = some e)
    (hlong : 0xFFFF < s.pc.toNat + 1 + e.operandCount) : s.fetchInstr = .raised s.overrun := by
  have hc := s.fetchInstr_cases
  generalize s.fetchInstr = f at hc ⊢
  cases hc with
  | opcodeOverrun _ => rfl
  | unknown _ hnone => cases hnone.symm.trans hop
  | operandOverrun _ _ _ _ => rfl
  | got i hfit henc =>
    have := length_eq_operandCount_add_one (readByte_pc_of_encode henc ▸ hop)
    omega

/-! ## The step of a Running machine -/

theorem step_of_fetch_raised {s t : State} (hrun : s.mode = .running) (h : s.fetchInstr = .raised t) :
    step s = .next t := by
  rw [step_of_running hrun, h]

theorem step_of_fetch_got {s u : State} {i : Instr} (hrun : s.mode = .running) (h : s.fetchInstr = .got i u) :
    step s = exec i u := by
  rw [step_of_running hrun, h]

theorem step_of_decode {s : State} {i : Instr} {rest : List Byte} (hrun : s.mode = .running)
    (hdec : decode (s.readBytes s.pc 3) = .instr i rest) (hfit : s.pc.toNat + i.length ≤ 0xFFFF) :
    step s = exec i (s.advance i.length) :=
  step_of_fetch_got hrun (State.fetchInstr_of_decode hdec hfit)

/-- A Running machine always has a next state: a fault is one too. -/
theorem exists_step_of_running {s : State} (hrun : s.mode = .running) : ∃ t, step s = .next t := by
  cases hf : s.fetchInstr with
  | raised t => exact ⟨t, step_of_fetch_raised hrun hf⟩
  | got i u =>
    obtain ⟨t, ht, -⟩ := exec_cases i u
    exact ⟨t, (step_of_fetch_got hrun hf).trans ht⟩

/-- The model's fetches and the obligations write the state after PcOverrun alike. -/
theorem State.overrun_eq_afterOverrun (s : State) : s.overrun = afterOverrun s := rfl

/-- Settles O33. -/
theorem stepRunsTheDecodedInstruction : Obligations.StepRunsTheDecodedInstruction :=
  fun _ _ _ hrun hdec hfit => step_of_decode hrun hdec hfit

/-- Settles O36: an illegal byte is one without an entry. -/
theorem unknownOpcodeStopsTheMachine : Obligations.UnknownOpcodeStopsTheMachine := by
  intro s hrun htop hillegal
  have hne : s.pc.toNat ≠ 0xFFFF := mt s.pc_eq_top_iff.mpr htop
  exact step_of_fetch_raised hrun
    (State.fetchInstr_of_illegal (by omega) ((opcodeEntry_eq_none_iff _).mpr hillegal))

/-- Settles O37: the opcode's entry has one operand byte, or two, so the instruction is too long for where it
stands. -/
theorem pcOverrunStopsTheMachine : Obligations.PcOverrunStopsTheMachine := by
  intro s hrun
  refine ⟨fun hpc => step_of_fetch_raised hrun (State.fetchInstr_top hpc), fun hpc hop => ?_, fun hpc hop => ?_⟩
  · obtain ⟨e, hentry, hcount⟩ := Option.map_eq_some_iff.mp (twoByteOpcodes_operandCount _ hop)
    exact step_of_fetch_raised hrun (State.fetchInstr_of_long hentry (by omega))
  · obtain ⟨e, hentry, hcount⟩ := Option.map_eq_some_iff.mp (threeByteOpcodes_operandCount _ hop)
    exact step_of_fetch_raised hrun (State.fetchInstr_of_long hentry (by omega))

/-- Settles O39, for the word fetch from the number its two bytes make. -/
theorem fetchesReadAtPcAndAdvanceIt : Obligations.FetchesReadAtPcAndAdvanceIt := by
  intro s
  exact ⟨State.fetchByte_got, State.fetchByte_top,
    fun hpc => ⟨_, joinBytes_toNat _ _, State.fetchWord_got (by omega)⟩,
    fun hpc => State.fetchWord_overrun (by omega)⟩

end Sys2Proof.Machine
end

section
/-! The status byte as the obligations read it (10_state.md R35, R36; 44_shift.md R200): Z and N as facts about
the number of the value, every other bit as it was. -/

namespace Sys2Proof.Machine

open Claims

theorem beq_zero_eq_decide_toNat (v : Byte) : (v == 0x00#8) = decide (v.toNat = 0) := by
  rw [Bool.eq_iff_iff, beq_iff_eq, decide_eq_true_iff]
  exact BitVec.toNat_inj.symm

theorem getLsbD_seven_eq_decide_toNat (v : Byte) : v.getLsbD 7 = decide (128 ≤ v.toNat) :=
  BitVec.msb_eq_decide v

theorem getLsbD_zero_eq_decide_toNat (v : Byte) : v.getLsbD 0 = decide (v.toNat % 2 = 1) := by
  rw [BitVec.getLsbD, Nat.testBit_zero]

theorem znFrom_setZN (v p : Byte) : ZNFrom v p (setZN v p) := by
  refine ⟨?_, ?_, fun n _ hZ hN => ?_⟩
  · rw [getLsbD_setZN, beq_zero_eq_decide_toNat]; rfl
  · rw [getLsbD_setZN, getLsbD_seven_eq_decide_toNat]; rfl
  · rw [getLsbD_setZN, if_neg hN, if_neg hZ]

theorem shiftFlags_shrFlags (v p : Byte) : ShiftFlags v p (shrFlags v p) := by
  refine ⟨?_, ?_, ?_, fun n _ hC hZ hN => ?_⟩
  · rw [getLsbD_shrFlags, getLsbD_zero_eq_decide_toNat]; rfl
  · rw [getLsbD_shrFlags]; rfl
  · rw [getLsbD_shrFlags, beq_zero_eq_decide_toNat, shrResult_toNat]; rfl
  · rw [getLsbD_shrFlags, if_neg hZ, if_neg hN, if_neg hC]

theorem bitSet_setFlag (f : Flag) (p : Byte) : BitSet f.bit p (Machine.setFlag f true p) := by
  refine ⟨?_, fun n _ hn => ?_⟩
  · rw [getLsbD_setFlag, if_pos rfl]
  · rw [getLsbD_setFlag, if_neg hn]

theorem setFlag_setFlag_self (f : Flag) (b : Bool) (p : Byte) :
    Machine.setFlag f b (Machine.setFlag f b p) = Machine.setFlag f b p := by
  refine BitVec.eq_of_getLsbD_eq fun k _ => ?_
  simp only [getLsbD_setFlag]
  split <;> rfl

@[simp] theorem State.reg_load_self (s : State) (r : Reg) (v : Byte) : (s.load r v).reg r = v := by
  cases r <;> rfl

/-- Settles O5: no number is 0 and 128 or more. -/
theorem setZNWritesZAndNOnly : Obligations.SetZNWritesZAndNOnly := by
  refine ⟨fun v p => ⟨znFrom_setZN v p, fun ⟨hZ, hN⟩ => ?_⟩, fun s r v => ⟨s.reg_load_self r v, ?_⟩⟩
  · obtain ⟨hz, hn, -⟩ := znFrom_setZN v p
    have hzero := of_decide_eq_true (hz.symm.trans hZ)
    have hlarge := of_decide_eq_true (hn.symm.trans hN)
    omega
  · rw [State.reg_load_self, State.load_P]

/-- Settles O6 from the bits of a flag write. -/
theorem oneFlagWriteLeavesTheOtherSevenBits : Obligations.OneFlagWriteLeavesTheOtherSevenBits := by
  refine fun f b p => ⟨?_, fun n _ hn => ?_, setFlag_setFlag_self f b p⟩
  · rw [getFlag, getLsbD_setFlag, if_pos rfl]
  · rw [getLsbD_setFlag, if_neg hn]

end Sys2Proof.Machine
end

section
/-! What an instruction leaves unchanged, each fact by the cases of `ExecCase`. -/

namespace Sys2Proof.Machine

open Claims

/-! ## The register an instruction loads -/

section
variable {i : Instr} {r : Reg} (h : Instr.loads i = some r)
include h

theorem writesA_iff_of_loads : writesA i ↔ r = .A := by
  have hlsr : i ≠ .lsrAcc := by rintro rfl; cases h
  rw [Instr.loads] at h
  rw [writesA, or_iff_right hlsr]
  generalize i.mnemonic = m at h ⊢
  cases m <;> cases h <;> decide

theorem writesX_iff_of_loads : writesX i ↔ r = .X := by
  rw [Instr.loads] at h
  rw [writesX]
  generalize i.mnemonic = m at h ⊢
  cases m <;> cases h <;> decide

theorem writesY_iff_of_loads : writesY i ↔ r = .Y := by
  rw [Instr.loads] at h
  rw [writesY]
  generalize i.mnemonic = m at h ⊢
  cases m <;> cases h <;> decide

end

/-! ## Where an instruction stores -/

theorem storesAt_pha (s : State) : storesAt .pha s = [stackCell s.S] := rfl

theorem storesAt_php (s : State) : storesAt .php s = [stackCell s.S] := rfl

theorem storesAt_jsr (addr16 : Addr) (s : State) :
    storesAt (.jsr addr16) s = [stackCell s.S, stackCell (s.S - 1)] := rfl

/-! ## Registers, pc, mode and record -/

section
variable {i : Instr} {s t : State} (h : ExecCase s i t)
include h

theorem ExecCase.A_eq (hA : ¬writesA i) : t.A = s.A := by
  cases h with
  | load _ r v hr =>
    rw [State.load_A, if_neg (mt (writesA_iff_of_loads hr).mpr hA)]
  | shrA => exact absurd (.inl rfl) hA
  | pla => exact absurd (.inr (by decide)) hA
  | _ => rfl

theorem ExecCase.X_eq (hX : ¬writesX i) : t.X = s.X := by
  cases h with
  | load _ r v hr =>
    rw [State.load_X, if_neg (mt (writesX_iff_of_loads hr).mpr hX)]
  | _ => rfl

theorem ExecCase.Y_eq (hY : ¬writesY i) : t.Y = s.Y := by
  cases h with
  | load _ r v hr =>
    rw [State.load_Y, if_neg (mt (writesY_iff_of_loads hr).mpr hY)]
  | _ => rfl

theorem ExecCase.S_eq (hS : i.mnemonic ∉ [.pha, .php, .pla, .plp, .jsr, .rts, .txs]) : t.S = s.S := by
  cases h with
  | load _ r v _ => exact s.load_S r v
  | pha | php | pla | plp | rts | txs => exact absurd (by decide) hS
  | jsr addr16 => exact absurd (by simp [Instr.mnemonic]) hS
  | _ => rfl

theorem ExecCase.pc_eq (hpc : i.mnemonic ∉ [.jmp, .jsr, .rts]) : t.pc = s.pc := by
  cases h with
  | load _ r v _ => exact s.load_pc r v
  | jmp _ _ hm => exact absurd (by rw [hm]; decide) hpc
  | jsr addr16 => exact absurd (by simp [Instr.mnemonic]) hpc
  | rts => exact absurd (by decide) hpc
  | _ => rfl

theorem ExecCase.mode_eq (hnop : i ≠ .nop) : t.mode = s.mode := by
  cases h with
  | load _ r v _ => exact s.load_mode r v
  | nop => exact absurd rfl hnop
  | _ => rfl

theorem ExecCase.fault_eq : t.fault = s.fault := by
  cases h with
  | load _ r v _ => exact s.load_fault r v
  | _ => rfl

/-! ## Memory -/

theorem ExecCase.readByte_eq {a : Addr} (ha : a ∉ storesAt i s) : t.readByte a = s.readByte a := by
  cases h with
  | load _ r v _ => exact s.readByte_load r v a
  | shrMem _ ea _ _ hs =>
    rw [hs, List.mem_singleton] at ha
    rw [State.readByte_shrMem, if_neg ha]
  | pha =>
    rw [storesAt_pha, List.mem_singleton] at ha
    rw [State.readByte_push, if_neg ha]
  | php =>
    rw [storesAt_php, List.mem_singleton] at ha
    rw [State.readByte_push, if_neg ha]
  | jsr addr16 =>
    obtain ⟨hfirst, hsecond⟩ : a ≠ stackCell s.S ∧ a ≠ stackCell (s.S - 1) := by
      simpa [storesAt_jsr] using ha
    calc State.readByte _ a = ((s.push (highByte (s.pc - 1))).push (lowByte (s.pc - 1))).readByte a := rfl
      _ = (s.push (highByte (s.pc - 1))).readByte a := (State.readByte_push _ _ a).trans (if_neg hsecond)
      _ = s.readByte a := (s.readByte_push _ a).trans (if_neg hfirst)
  | _ => rfl

theorem ExecCase.wf (hwf : s.mem.wf = true) : t.mem.wf = true := by
  cases h with
  | load _ r v _ => rwa [State.load_mem]
  | shrMem _ ea _ _ _ => exact State.wf_shrMem ea hwf
  | pha | php => exact State.wf_push _ hwf
  | jsr addr16 => exact State.wf_push _ (State.wf_push _ hwf)
  | _ => exact hwf

/-! ## The status byte -/

/-- Bit 1 (Z) and bit 7 (N) aside, C is written by SEC and LSR, I by SEI, D by SED, and any bit by PLP. -/
theorem ExecCase.getLsbD_P_eq (hplp : i ≠ .plp) {k : Nat} (hZ : k ≠ 1) (hN : k ≠ 7)
    (hC : i = .sec ∨ i.mnemonic = .lsr → k ≠ 0) (hI : i = .sei → k ≠ 2) (hD : i = .sed → k ≠ 3) :
    t.P.getLsbD k = s.P.getLsbD k := by
  have hshr (v : Byte) (hlsr : i.mnemonic = .lsr) : (shrFlags v s.P).getLsbD k = s.P.getLsbD k := by
    rw [getLsbD_shrFlags, if_neg hZ, if_neg hN, if_neg (hC (.inr hlsr))]
  have hload (v : Byte) : (setZN v s.P).getLsbD k = s.P.getLsbD k := by
    rw [getLsbD_setZN, if_neg hN, if_neg hZ]
  cases h with
  | load _ r v _ => exact hload v
  | shrA => exact hshr s.A rfl
  | shrMem _ ea hm _ _ => exact hshr _ hm
  | pla => exact hload _
  | plp => exact absurd rfl hplp
  | sec => exact (getLsbD_setFlag .C true s.P k).trans (if_neg (hC (.inl rfl)))
  | sei => exact (getLsbD_setFlag .I true s.P k).trans (if_neg (hI rfl))
  | sed => exact (getLsbD_setFlag .D true s.P k).trans (if_neg (hD rfl))
  | _ => rfl

end

/-- Z and N say of the value v what the spec's `SetZN(v)` makes them say (10_state.md R35). -/
def ZNOf (v p : Byte) : Prop := p.getLsbD 1 = decide (v.toNat = 0) ∧ p.getLsbD 7 = decide (128 ≤ v.toNat)

theorem znOf_setZN (v p : Byte) : ZNOf v (setZN v p) :=
  have h := znFrom_setZN v p
  ⟨h.1, h.2.1⟩

/-- A byte shifted right is below 128, so the cleared N is bit 7 of the result. -/
theorem znOf_shrFlags (v p : Byte) : ZNOf (shrResult v) (shrFlags v p) := by
  obtain ⟨-, hN, hZ, -⟩ := shiftFlags_shrFlags v p
  have hv := v.isLt
  refine ⟨?_, ?_⟩
  · rw [hZ, shrResult_toNat]
  · rw [hN, shrResult_toNat, eq_comm, decide_eq_false_iff_not]
    omega

section
variable {i : Instr} {s t : State} (h : ExecCase s i t)
include h

theorem ExecCase.znOf_A (hA : writesA i) : ZNOf t.A t.P := by
  cases h with
  | load _ r v hr =>
    obtain rfl := (writesA_iff_of_loads hr).mp hA
    exact znOf_setZN v s.P
  | shrA => exact znOf_shrFlags s.A s.P
  | pla => exact znOf_setZN _ s.P
  | shrMem _ _ hm ha _ => simp [writesA, ha, hm] at hA
  | jmp _ _ hm =>
    obtain rfl | hA := hA
    · cases hm
    · simp [hm] at hA
  | _ => simp [writesA, Instr.mnemonic] at hA

theorem ExecCase.znOf_X (hX : writesX i) : ZNOf t.X t.P := by
  cases h with
  | load _ r v hr =>
    obtain rfl := (writesX_iff_of_loads hr).mp hX
    exact znOf_setZN v s.P
  | shrMem _ _ hm _ _ | jmp _ _ hm => simp [writesX, hm] at hX
  | _ => simp [writesX, Instr.mnemonic] at hX

theorem ExecCase.znOf_Y (hY : writesY i) : ZNOf t.Y t.P := by
  cases h with
  | load _ r v hr =>
    obtain rfl := (writesY_iff_of_loads hr).mp hY
    exact znOf_setZN v s.P
  | shrMem _ _ hm _ _ | jmp _ _ hm => simp [writesY, hm] at hY
  | _ => simp [writesY, Instr.mnemonic] at hY

end

/-- Settles O8: each of the six bits by the instructions that can write it. -/
theorem flagsChangeOnlyByTheirOwnInstructions : Obligations.FlagsChangeOnlyByTheirOwnInstructions := by
  intro i s t h hplp
  have hkeep {k : Nat} := (execCase_of_next h).getLsbD_P_eq hplp (k := k)
  have hupper {k : Nat} (hk : 4 ≤ k) (hN : k ≠ 7) : t.P.getLsbD k = s.P.getLsbD k :=
    hkeep (by omega) hN (fun _ => by omega) (fun _ => by omega) (fun _ => by omega)
  refine ⟨hupper (by decide) (by decide), hupper (by decide) (by decide), hupper (by decide) (by decide),
    fun hsei => ?_, fun hsed => ?_, fun hsec hlsr => ?_⟩
  · exact hkeep (by decide) (by decide) (fun _ => by decide) (absurd · hsei) (fun _ => by decide)
  · exact hkeep (by decide) (by decide) (fun _ => by decide) (fun _ => by decide) (absurd · hsed)
  · exact hkeep (by decide) (by decide) (fun hC => (hC.elim hsec hlsr).elim) (fun _ => by decide)
      (fun _ => by decide)

/-- Settles O9. -/
theorem everyRegisterWriteSetsZAndN : Obligations.EveryRegisterWriteSetsZAndN := by
  intro i s t h
  have hc := execCase_of_next h
  exact ⟨hc.znOf_A, hc.znOf_X, hc.znOf_Y⟩

/-- Settles O29. -/
theorem instructionsLeaveTheRestUnchanged : Obligations.InstructionsLeaveTheRestUnchanged := by
  intro i s t h
  have hc := execCase_of_next h
  exact ⟨hc.A_eq, hc.X_eq, hc.Y_eq, hc.S_eq, hc.pc_eq, hc.mode_eq, hc.fault_eq, fun _ => hc.readByte_eq⟩

end Sys2Proof.Machine
end

section
/-! The step read backwards: what a step that answered t did, with the faults as states (60_exceptions.md) and
the halt opcode as the one way to mode Halted (48_flag_set_halt.md). -/

namespace Sys2Proof.Machine

open Claims

/-- A step raised PcOverrun, or UnknownOpcode, or ran the instruction whose opcode stands at pc. -/
theorem step_outcomes {s t : State} (h : step s = .next t) :
    t = s.overrun ∨
    (s.pc.toNat < 0xFFFF ∧ opcodeEntry (s.readByte s.pc) = none ∧
      t = (s.advance 1).raise (.unknownOpcode (s.readByte s.pc) s.pc)) ∨
    ∃ i, s.readByte s.pc = opcodeOf i ∧ s.pc.toNat + i.length ≤ 0xFFFF ∧ ExecCase (s.advance i.length) i t := by
  obtain ⟨-, hraised | ⟨i, hgot, hexec⟩⟩ := step_cases h
  · cases hraised with
    | opcodeOverrun _ => exact .inl rfl
    | unknown hpc hnone => exact .inr (.inl ⟨hpc, hnone, rfl⟩)
    | operandOverrun _ _ _ _ => exact .inl rfl
  · cases hgot with
    | got _ hfit henc => exact .inr (.inr ⟨i, readByte_pc_of_encode henc, hfit, hexec⟩)

@[simp] theorem State.advance_mode (s : State) (n : Nat) : (s.advance n).mode = s.mode := rfl

theorem ExecCase.eq_halted {s t : State} (h : ExecCase s .nop t) : t = { s with mode := .halted } := by
  cases h with
  | load _ _ _ hr => cases hr
  | shrMem _ _ hm _ _ => cases hm
  | jmp _ _ hm => cases hm
  | nop => rfl

/-- An operation leaves the mode or is NOP's, and so never ends in mode Faulted. -/
theorem ExecCase.mode_ne_faulted {i : Instr} {s t : State} (h : ExecCase s i t) (hs : s.mode ≠ .faulted) :
    t.mode ≠ .faulted := by
  by_cases hnop : i = .nop
  · subst hnop
    rw [h.eq_halted]
    exact (by decide : Mode.halted ≠ .faulted)
  · rwa [h.mode_eq hnop]

/-- Only the byte 0xEA halts a machine, and it must be one that can be fetched. -/
theorem step_to_halted {s t : State} (h : step s = .next t) (ht : t.mode = .halted) :
    s.readByte s.pc = 0xEA#8 ∧ s.pc.toNat < 0xFFFF ∧ t = { s.advance 1 with mode := .halted } := by
  obtain rfl | ⟨-, -, rfl⟩ | ⟨i, hop, hfit, hexec⟩ := step_outcomes h
  · cases ht
  · cases ht
  · by_cases hnop : i = .nop
    · subst hnop
      exact ⟨hop, hfit, hexec.eq_halted⟩
    · have hrun := running_of_step_next h
      rw [hexec.mode_eq hnop, State.advance_mode, hrun] at ht
      cases ht

/-- A step that did not fault leaves the record. -/
theorem fault_eq_of_step {s t : State} (h : step s = .next t) (ht : t.mode ≠ .faulted) : t.fault = s.fault := by
  obtain rfl | ⟨-, -, rfl⟩ | ⟨i, -, -, hexec⟩ := step_outcomes h
  · exact absurd rfl ht
  · exact absurd rfl ht
  · exact hexec.fault_eq

/-- The two faults of a step, each with what it was raised for. -/
theorem step_to_faulted {s t : State} (h : step s = .next t) (ht : t.mode = .faulted) :
    t = s.overrun ∨
    (s.pc.toNat < 0xFFFF ∧ opcodeEntry (s.readByte s.pc) = none ∧
      t = (s.advance 1).raise (.unknownOpcode (s.readByte s.pc) s.pc)) := by
  obtain hover | hunknown | ⟨i, -, -, hexec⟩ := step_outcomes h
  · exact .inl hover
  · exact .inr hunknown
  · have hs : (s.advance i.length).mode ≠ .faulted := by
      rw [State.advance_mode, running_of_step_next h]
      decide
    exact absurd ht (hexec.mode_ne_faulted hs)

/-- Settles O34: the operation begins in the state advanced by the length, and only the control transfers write
pc. -/
theorem pcMovesPastTheInstruction : Obligations.PcMovesPastTheInstruction := by
  intro s i rest hrun hdec hfit
  obtain ⟨t, ht, hc⟩ := exec_cases i (s.advance i.length)
  have hpc := State.advance_pc_toNat hfit
  refine ⟨s.advance i.length, t, hpc, rfl, ht, (step_of_decode hrun hdec hfit).trans ht, fun hi => ?_⟩
  rw [hc.pc_eq hi, hpc]

/-- Settles O35 by the mode of the next state. -/
theorem stepOfARunningMachineHasFourOutcomes : Obligations.StepOfARunningMachineHasFourOutcomes := by
  intro s hrun hnone
  obtain ⟨t, ht⟩ := exists_step_of_running hrun
  refine ⟨t, ht, ?_⟩
  cases hm : t.mode with
  | running => exact .inl ⟨rfl, (fault_eq_of_step ht (by simp [hm])).trans hnone⟩
  | halted =>
    obtain ⟨hop, hpc, -⟩ := step_to_halted ht hm
    have htop : s.pc ≠ Config.topAddress := mt s.pc_eq_top_iff.mp (by omega)
    exact .inr (.inl ⟨rfl, (fault_eq_of_step ht (by simp [hm])).trans hnone, hop, htop⟩)
  | faulted =>
    obtain rfl | ⟨-, -, rfl⟩ := step_to_faulted ht hm
    · exact .inr (.inr (.inl s.overrun_eq_afterOverrun))
    · exact .inr (.inr (.inr ⟨rfl, rfl⟩))

/-- Settles O38: a raise writes mode and record, and the fetches before it moved pc only. -/
theorem faultsArePrecise : Obligations.FaultsArePrecise := by
  intro s t h ht
  obtain rfl | ⟨hpc, hnone, rfl⟩ := step_to_faulted h ht
  · exact ⟨rfl, rfl, rfl, rfl, rfl, rfl, .inl ⟨rfl, rfl⟩⟩
  · have htop : s.pc ≠ Config.topAddress := mt s.pc_eq_top_iff.mp (by omega)
    exact ⟨rfl, rfl, rfl, rfl, rfl, rfl,
      .inr ⟨rfl, rfl, htop, (opcodeEntry_eq_none_iff _).mp hnone⟩⟩

end Sys2Proof.Machine
end

section
/-! The canonical form determines a memory (10_state.md, section 6), and the word access as numbers
(20_memory.md, section 2). -/

namespace Sys2Proof.Machine

theorem Memory.risingFrom_cons {lo a : Nat} {b : Byte} {m : Memory} :
    Memory.risingFrom lo ((a, b) :: m) = true ↔
      lo ≤ a ∧ a < 65536 ∧ b ≠ Config.powerOnByte ∧ Memory.risingFrom (a + 1) m = true := by
  simp only [Memory.risingFrom, Bool.and_eq_true, decide_eq_true_eq, and_assoc]

theorem Memory.lookup_cons_self (a : Nat) (b : Byte) (m : Memory) : Memory.lookup ((a, b) :: m) a = b := if_pos rfl

theorem Memory.lookup_cons_of_ne {a k : Nat} (b : Byte) (m : Memory) (h : a ≠ k) :
    Memory.lookup ((a, b) :: m) k = m.lookup k := if_neg h

/-- A byte listed by one canonical memory does not lie below the first byte of another that reads alike there. -/
theorem Memory.head_le_head {lo lo' a a' : Nat} {b b' : Byte} {m m' : Memory}
    (h : Memory.risingFrom lo ((a, b) :: m) = true) (h' : Memory.risingFrom lo' ((a', b') :: m') = true)
    (heq : Memory.lookup ((a, b) :: m) a = Memory.lookup ((a', b') :: m') a) : a' ≤ a := by
  by_contra hlt
  obtain ⟨-, -, hb, -⟩ := Memory.risingFrom_cons.mp h
  obtain ⟨-, htop', hb', htail'⟩ := Memory.risingFrom_cons.mp h'
  have hfrom : Memory.risingFrom a' ((a', b') :: m') = true :=
    Memory.risingFrom_cons.mpr ⟨le_rfl, htop', hb', htail'⟩
  rw [Memory.lookup_cons_self, Memory.lookup_of_lt (by omega) hfrom] at heq
  exact hb heq

/-- By induction on the first list: reading alike makes the first cells equal, and below them nothing is listed. -/
theorem Memory.eq_of_lookup_eq {lo : Nat} {m m' : Memory} (h : Memory.risingFrom lo m = true)
    (h' : Memory.risingFrom lo m' = true) (heq : ∀ k < 65536, m.lookup k = m'.lookup k) : m = m' := by
  induction m generalizing lo m' with
  | nil =>
    cases m' with
    | nil => rfl
    | cons c' m' =>
      obtain ⟨-, htop', hb', -⟩ := Memory.risingFrom_cons.mp h'
      exact absurd ((heq c'.1 htop').trans (Memory.lookup_cons_self _ _ _)).symm hb'
  | cons c m ih =>
    obtain ⟨a, b⟩ := c
    obtain ⟨-, htop, hb, htail⟩ := Memory.risingFrom_cons.mp h
    cases m' with
    | nil => exact absurd ((Memory.lookup_cons_self a b m).symm.trans (heq a htop)) hb
    | cons c' m' =>
      obtain ⟨a', b'⟩ := c'
      obtain ⟨-, htop', -, htail'⟩ := Memory.risingFrom_cons.mp h'
      obtain rfl : a = a' := le_antisymm
        (Memory.head_le_head h' h (heq a' htop').symm) (Memory.head_le_head h h' (heq a htop))
      have hhead := heq a htop
      rw [Memory.lookup_cons_self, Memory.lookup_cons_self] at hhead
      refine congrArg₂ _ (congrArg _ hhead) (ih htail htail' fun k hk => ?_)
      by_cases hka : k < a + 1
      · rw [Memory.lookup_of_lt hka htail, Memory.lookup_of_lt hka htail']
      · have hne : a ≠ k := by omega
        rw [← Memory.lookup_cons_of_ne b m hne, heq k hk, Memory.lookup_cons_of_ne b' m' hne]

/-- Settles O4. -/
theorem canonicalMemoriesThatReadAlikeAreEqual : Obligations.CanonicalMemoriesThatReadAlikeAreEqual := by
  intro m m' h h' heq
  refine Memory.eq_of_lookup_eq h h' fun k hk => ?_
  have hread := heq (BitVec.ofNat 16 k)
  rwa [BitVec.toNat_ofNat, Nat.mod_eq_of_lt hk] at hread

/-! ## Words -/

/-- The address after a, as the obligations name it by its number. -/
theorem Addr.eq_add_one {a b : Addr} (h : b.toNat = (a.toNat + 1) % 65536) : b = a + 1 :=
  BitVec.eq_of_toNat_eq (h.trans (BitVec.toNat_add a 1).symm)

theorem State.readWord_toNat (s : State) (a : Addr) :
    (s.readWord a).toNat = (s.readByte (a + 1)).toNat * 256 + (s.readByte a).toNat := joinBytes_toNat _ _

theorem State.writeWord_with_mem (s : State) (a v : Addr) : { s.writeWord a v with mem := s.mem } = s := rfl

/-- Settles O2. -/
theorem wordReadIsLittleEndian : Obligations.WordReadIsLittleEndian := by
  intro s a b hb
  obtain rfl := Addr.eq_add_one hb
  exact s.readWord_toNat a

/-- Settles O3. -/
theorem wordWriteStoresTwoBytesAndReadsBack : Obligations.WordWriteStoresTwoBytesAndReadsBack := by
  intro s a b v hb
  obtain rfl := Addr.eq_add_one hb
  refine ⟨?_, ?_, s.readWord_writeWord_self a v, fun j hja hjb => s.readByte_writeWord_of_ne v hja hjb,
    s.writeWord_with_mem a v⟩
  · rw [State.readByte_writeWord_low, lowByte_toNat]
  · rw [State.readByte_writeWord_high, highByte_toNat]

/-- Settles O52: the host's accesses are the machine's own, in every mode. -/
theorem hostAccessesReadAndWriteMemoryOnly : Obligations.HostAccessesReadAndWriteMemoryOnly := by
  intro s a b w v hb
  obtain ⟨hlow, hhigh, -, hframe, hrest⟩ := wordWriteStoresTwoBytesAndReadsBack s a b w hb
  exact ⟨rfl, wordReadIsLittleEndian s a b hb, s.readByte_writeByte_self a v,
    fun j hj => s.readByte_writeByte_of_ne v hj, s.writeByte_with_mem a v, hlow, hhigh, hframe, hrest⟩

end Sys2Proof.Machine
end

section
/-! The invariant (10_state.md, section 6; 60_exceptions.md, section 1): kept by every step, and so along every
run, and by what the host does between runs. -/

namespace Sys2Proof.Machine

open Claims

theorem recordOk_iff_of_not_faulted {s : State} (hs : s.mode ≠ .faulted) : RecordOk s ↔ s.fault = none := by
  rw [RecordOk]
  cases s.fault with
  | none => simp [hs]
  | some r => cases r <;> simp [hs]

theorem fault_eq_none_of_running {s : State} (hinv : RecordOk s) (hrun : s.mode = .running) : s.fault = none :=
  (recordOk_iff_of_not_faulted (by simp [hrun])).mp hinv

theorem recordOk_overrun (s : State) : RecordOk s.overrun := ⟨rfl, rfl, rfl⟩

theorem recordOk_raise_unknownOpcode {s : State} {op : Byte} (hpc : s.pc ≠ Config.topAddress)
    (hop : opcodeEntry op = none) : RecordOk ((s.advance 1).raise (.unknownOpcode op s.pc)) :=
  ⟨rfl, hop, hpc, rfl⟩

theorem machineInv_of_step {s t : State} (hinv : MachineInv s) (h : step s = .next t) : MachineInv t := by
  obtain ⟨hwf, hrec⟩ := hinv
  have hrun := running_of_step_next h
  obtain rfl | ⟨hpc, hnone, rfl⟩ | ⟨i, -, -, hexec⟩ := step_outcomes h
  · exact ⟨hwf, recordOk_overrun s⟩
  · exact ⟨hwf, recordOk_raise_unknownOpcode (mt s.pc_eq_top_iff.mp (by omega)) hnone⟩
  · have ht : t.mode ≠ .faulted := hexec.mode_ne_faulted (by rw [State.advance_mode, hrun]; decide)
    have hfault : t.fault = none := hexec.fault_eq.trans (fault_eq_none_of_running (s := s) hrec hrun)
    exact ⟨hexec.wf hwf, (recordOk_iff_of_not_faulted ht).mpr hfault⟩

/-- Settles O41: a raise writes the record its mode calls for, and an operation keeps memory canonical and the
record empty. -/
theorem everyStepKeepsTheInvariant : Obligations.EveryStepKeepsTheInvariant :=
  fun _ _ => machineInv_of_step

/-- What every step keeps holds along every run. -/
theorem reaches_induction {Inv : State → Prop} (hstep : ∀ s t, Inv s → step s = .next t → Inv t) {s t : State}
    (h : Reaches s t) (hs : Inv s) : Inv t := by
  induction h with
  | here _ => exact hs
  | later s u t hsu _ ih => exact ih (hstep s u hs hsu)

/-! ## Host operations -/

theorem machineInv_resetRegisters {s : State} (hwf : s.mem.wf = true) : MachineInv s.resetRegisters :=
  ⟨hwf, (by decide : Mode.running ≠ .faulted)⟩

theorem machineInv_writeByte {s : State} (hinv : MachineInv s) (a : Addr) (v : Byte) :
    MachineInv (s.writeByte a v) := ⟨State.wf_writeByte a v hinv.1, hinv.2⟩

theorem machineInv_writeWord {s : State} (hinv : MachineInv s) (a v : Addr) : MachineInv (s.writeWord a v) :=
  machineInv_writeByte (machineInv_writeByte hinv a _) _ _

/-- The entry address is in memory and in pc, and the record of a reset machine does not depend on pc. -/
theorem machineInv_resetTo {s : State} (hwf : s.mem.wf = true) (e : Addr) : MachineInv (s.resetTo e) :=
  ⟨State.wf_writeWord _ e hwf, (by decide : Mode.running ≠ .faulted)⟩

theorem hostRunStart_of_faulted {s : State} (hs : s.mode = .faulted) : s.hostRunStart = s := by
  simp only [State.hostRunStart, hs]

theorem hostRunStart_of_not_faulted {s : State} (hs : s.mode ≠ .faulted) :
    s.hostRunStart = { s with mode := .running } := by
  cases hm : s.mode <;> simp_all [State.hostRunStart]

theorem machineInv_hostRunStart {s : State} (hinv : MachineInv s) : MachineInv s.hostRunStart := by
  by_cases hs : s.mode = .faulted
  · rwa [hostRunStart_of_faulted hs]
  · obtain ⟨hwf, hrec⟩ := hinv
    rw [hostRunStart_of_not_faulted hs]
    exact ⟨hwf, (recordOk_iff_of_not_faulted (by simp)).mpr ((recordOk_iff_of_not_faulted hs).mp hrec)⟩

theorem State.hostReset_of_not_faulted {s : State} (hs : s.mode ≠ .faulted) :
    s.hostReset = some s.resetRegisters := if_neg hs

theorem State.hostReset_of_faulted {s : State} (hs : s.mode = .faulted) : s.hostReset = none := if_pos hs

theorem State.hostResetEntry_of_faulted {s : State} (e : Addr) (hs : s.mode = .faulted) :
    s.hostResetEntry e = none := if_pos hs

theorem hostRunEnds_iff_reaches {s t : State} :
    HostRunEnds s t ↔ Reaches s.hostRunStart t ∧ t.mode ≠ .running := runEnds_iff_reaches

/-- Settles O43. -/
theorem hostOperationsKeepTheInvariant : Obligations.HostOperationsKeepTheInvariant := by
  intro s hinv
  refine ⟨fun t ht => ?_, fun e t ht => ?_, machineInv_writeByte hinv, machineInv_writeWord hinv, fun t ht => ?_⟩
  · obtain ⟨-, rfl⟩ : s.mode ≠ .faulted ∧ s.resetRegisters = t := by simpa [State.hostReset] using ht
    exact machineInv_resetRegisters hinv.1
  · by_cases hs : s.mode = .faulted
    · rw [State.hostResetEntry_of_faulted e hs] at ht
      cases ht
    · rw [State.hostResetEntry_eq_resetTo e hs] at ht
      cases ht
      exact machineInv_resetTo hinv.1 e
  · exact reaches_induction (fun _ _ => machineInv_of_step) (hostRunEnds_iff_reaches.mp ht).1
      (machineInv_hostRunStart hinv)

/-- Settles O42. -/
theorem invariantHoldsAtPowerOnAndReset : Obligations.InvariantHoldsAtPowerOnAndReset :=
  ⟨⟨Memory.wf_nil, (by decide : State.powerOn.mode ≠ .faulted)⟩,
    machineInv_resetRegisters (s := State.powerOn) Memory.wf_nil⟩

/-! ## Power-on and reset -/

/-- Settles O40: a Faulted machine has no step, no reset, and a run that ends where it begins. -/
theorem haltedAndFaultedMachinesTakeNoStep : Obligations.HaltedAndFaultedMachinesTakeNoStep := by
  refine ⟨fun s hs => step_of_halted hs, fun s hs => ⟨step_of_faulted hs, State.hostReset_of_faulted hs,
    fun e => State.hostResetEntry_of_faulted e hs, fun t => ?_⟩⟩
  rw [HostRunEnds, hostRunStart_of_faulted hs, runEnds_iff_of_not_running (by simp [hs])]

/-- Settles O44: the memory of power-on lists no byte. -/
theorem powerOnClearsEverything : Obligations.PowerOnClearsEverything :=
  ⟨⟨rfl, rfl, rfl, rfl, rfl, rfl, rfl, rfl, fun _ => rfl⟩, State.hostReset_of_not_faulted (by decide)⟩

/-- Settles O45. -/
theorem resetWithoutEntryStartsAtTheVectorAddress : Obligations.ResetWithoutEntryStartsAtTheVectorAddress :=
  fun _ hs => ⟨_, State.hostReset_of_not_faulted hs, rfl, rfl, rfl, rfl, rfl, rfl, rfl, rfl, rfl⟩

/-- Storing a word a second time stores nothing new, and canonical memories that read alike are equal. -/
theorem State.writeWord_writeWord_self {s : State} (a v : Addr) (hwf : s.mem.wf = true) :
    (s.writeWord a v).writeWord a v = s.writeWord a v := by
  have hwf' := State.wf_writeWord a v hwf
  have hmem : ((s.writeWord a v).writeWord a v).mem = (s.writeWord a v).mem := by
    refine canonicalMemoriesThatReadAlikeAreEqual _ _ (State.wf_writeWord a v hwf') hwf' fun j => ?_
    change ((s.writeWord a v).writeWord a v).readByte j = (s.writeWord a v).readByte j
    rw [State.readByte_writeWord, State.readByte_writeWord]
    split
    · rfl
    · split <;> rfl
  calc (s.writeWord a v).writeWord a v
      = { s.writeWord a v with mem := ((s.writeWord a v).writeWord a v).mem } := rfl
    _ = s.writeWord a v := by rw [hmem]

theorem State.resetTo_resetTo {s : State} (e : Addr) (hwf : s.mem.wf = true) :
    (s.resetTo e).resetTo e = s.resetTo e :=
  congrArg (fun u : State => { u with pc := e })
    (State.writeWord_writeWord_self (s := s.resetRegisters) Config.resetVector e hwf)

/-- Settles O47: the second reset stores the vector bytes that are there already. -/
theorem resetIsIdempotent : Obligations.ResetIsIdempotent := by
  intro s e hs hwf
  have hreset : (s.resetTo e).mode ≠ .faulted := (by decide : Mode.running ≠ .faulted)
  refine ⟨⟨s.resetRegisters, State.hostReset_of_not_faulted hs, rfl⟩,
    s.resetTo e, s.hostResetEntry_eq_resetTo e hs, ?_, (s.resetTo e).resetRegisters,
    State.hostReset_of_not_faulted hreset, rfl, s.resetRegisters.readWord_writeWord_self Config.resetVector e⟩
  rw [State.hostResetEntry_eq_resetTo e hreset, State.resetTo_resetTo e hwf]

/-! ## Runs -/

/-- Where the machine is Halted, the byte before pc is the halt opcode. -/
def HaltedPastHaltOpcode (s : State) : Prop := s.mode = .halted → s.readByte (s.pc - 1) = 0xEA#8

theorem haltedPastHaltOpcode_of_step {s t : State} (h : step s = .next t) : HaltedPastHaltOpcode t := by
  intro ht
  obtain ⟨hop, -, rfl⟩ := step_to_halted h ht
  have hpc : s.pc + 1 - 1 = s.pc := BitVec.add_sub_cancel s.pc 1
  exact (congrArg s.readByte hpc).trans hop

/-- Settles O49: the run begins in mode Running, and the step that halts it has executed 0xEA. -/
theorem aRunThatHaltsEndsOnTheHaltOpcode : Obligations.ARunThatHaltsEndsOnTheHaltOpcode := by
  intro s t hs hrun
  obtain ⟨hreach, hstop⟩ := hostRunEnds_iff_reaches.mp hrun
  refine ⟨?_, reaches_induction (Inv := HaltedPastHaltOpcode) (fun _ _ _ h => haltedPastHaltOpcode_of_step h) hreach ?_⟩
  · cases hm : t.mode with
    | running => exact absurd hm hstop
    | halted => exact .inl rfl
    | faulted => exact .inr rfl
  · rw [hostRunStart_of_not_faulted hs]
    intro hhalted
    cases hhalted

/-- A Running machine whose next step leads back to it never stops. -/
theorem not_runEnds_of_step_self {s t : State} (h : step s = .next s) : ¬RunEnds s t := by
  intro hend
  obtain ⟨hreach, hstop⟩ := runEnds_iff_reaches.mp hend
  have hback : ∀ u v, u = s → step u = .next v → v = s := by
    rintro u v rfl hv
    cases h.symm.trans hv
    rfl
  obtain rfl : t = s := reaches_induction hback hreach rfl
  exact hstop (running_of_step_next h)

/-- `JMP` to its own address, fetched whole, is a step from a state to itself. -/
theorem step_jump_to_itself {s : State} (hrun : s.mode = .running) (hpc : s.pc.toNat ≤ 0xFFFC)
    (hop : s.readByte s.pc = 0x4C#8) (hlow : s.readByte (s.pc + 1) = lowByte s.pc)
    (hhigh : s.readByte (s.pc + 2) = highByte s.pc) : step s = .next s := by
  have hbytes : s.readBytes s.pc 3 = encode (.jmpAbs s.pc) ++ [] := by
    have htwo : s.pc + 1 + 1 = s.pc + 2 := BitVec.add_assoc s.pc 1 1
    simp only [State.readBytes, hop, hlow, htwo, hhigh]
    rfl
  have hfit : s.pc.toNat + Instr.length (.jmpAbs s.pc) ≤ 0xFFFF := Nat.add_le_add_right hpc 3
  exact step_of_decode hrun (hbytes ▸ decode_encode_append _ _) hfit

/-- Settles O50. -/
theorem aJumpToItselfNeverEnds : Obligations.AJumpToItselfNeverEnds := by
  intro s t hs hpc hop hlow hhigh
  rw [HostRunEnds, hostRunStart_of_not_faulted hs]
  refine not_runEnds_of_step_self (step_jump_to_itself rfl hpc hop ?_ ?_)
  · exact BitVec.eq_of_toNat_eq (hlow.trans (lowByte_toNat s.pc).symm)
  · exact BitVec.eq_of_toNat_eq (hhigh.trans (highByte_toNat s.pc).symm)

end Sys2Proof.Machine
end

section
/-! The operand forms as numbers (41_addressing_modes.md). -/

namespace Sys2Proof.Machine

/-- A zero-page sum is below 65536 as a number, so the model's 16-bit sum is the number itself (the spec's decision
D5). -/
theorem zext16_add_zext16 (a b : Byte) : zext16 a + zext16 b = BitVec.ofNat 16 (a.toNat + b.toNat) := by
  apply BitVec.eq_of_toNat_eq
  simp

theorem zext16_add_zext16_toNat (a b : Byte) : (zext16 a + zext16 b).toNat = a.toNat + b.toNat := by
  have ha := a.isLt
  have hb := b.isLt
  rw [zext16_add_zext16, BitVec.toNat_ofNat]
  omega

theorem add_zext16_toNat (w : Addr) (b : Byte) : (w + zext16 b).toNat = (w.toNat + b.toNat) % 65536 := by
  simp

/-- The bytes of the word at a number n. -/
theorem State.readWord_ofNat_toNat (s : State) (n : Nat) :
    (s.readWord (BitVec.ofNat 16 n)).toNat =
      (s.readByte (BitVec.ofNat 16 (n + 1))).toNat * 256 + (s.readByte (BitVec.ofNat 16 n)).toNat := by
  rw [State.readWord_toNat, BitVec.ofNat_add]
  rfl

/-- Settles O11. -/
theorem directFormsComputeTheirAddress : Obligations.DirectFormsComputeTheirAddress := by
  intro zp8 addr16 s
  exact ⟨BitVec.toNat_setWidth_of_le (by decide), zext16_add_zext16_toNat zp8 s.X, zext16_add_zext16_toNat zp8 s.Y,
    rfl, add_zext16_toNat addr16 s.X, add_zext16_toNat addr16 s.Y⟩

/-- Settles O12: a word read at the pointer's address, unreduced. -/
theorem indirectFormsReadTheirPointer : Obligations.IndirectFormsReadTheirPointer := by
  intro zp8 s
  refine ⟨?_, ?_⟩
  · rw [eaIndx, zext16_add_zext16, State.readWord_ofNat_toNat]
  · have hzp : zext16 zp8 = BitVec.ofNat 16 zp8.toNat := BitVec.eq_of_toNat_eq (by simp)
    rw [eaIndy, add_zext16_toNat, hzp, State.readWord_ofNat_toNat]

theorem pointerHighAddr_toNat (ptr : Addr) :
    (pointerHighAddr ptr).toNat = if ptr.toNat % 256 = 255 then ptr.toNat - 255 else ptr.toNat + 1 := by
  have hptr := ptr.isLt
  rw [pointerHighAddr, joinBytes_toNat, highByte_toNat, BitVec.toNat_add, lowByte_toNat]
  split <;> simp <;> omega

end Sys2Proof.Machine
end

section
/-! The stack (45_stack.md R210): the cells, and that a pull returns what the last push stored. -/

namespace Sys2Proof.Machine

open Claims

/-- The spec's `0x0100 | zext16(S)` and the model's join of 0x01 and S are one address. -/
theorem cell_eq_stackCell (x : Byte) : cell x = stackCell x := by
  apply BitVec.eq_of_toNat_eq
  have hor := Nat.shiftLeft_add_eq_or_of_lt x.isLt 1
  rw [stackCell, joinBytes_toNat, cell, BitVec.toNat_or, BitVec.toNat_setWidth_of_le (by decide)]
  exact hor.symm

theorem stackCell_toNat (x : Byte) : (stackCell x).toNat = 0x0100 + x.toNat := joinBytes_toNat _ _

@[simp] theorem State.readByte_push_self (s : State) (v : Byte) : (s.push v).readByte (stackCell s.S) = v := by
  rw [State.readByte_push, if_pos rfl]

theorem State.readByte_push_of_ne (s : State) (v : Byte) {a : Addr} (ha : a ≠ stackCell s.S) :
    (s.push v).readByte a = s.readByte a := by
  rw [State.readByte_push, if_neg ha]

@[simp] theorem State.pullByte_push (s : State) (v : Byte) : (s.push v).pullByte = v := by
  rw [State.pullByte, State.push_S, BitVec.sub_add_cancel, State.readByte_push_self]

theorem stackCell_ne_stackCell_sub_one (x : Byte) : stackCell x ≠ stackCell (x - 1) := by
  rw [Ne, stackCell_inj]
  bv_omega

/-- After two pushes the first byte is still in its cell: 0x01 : S and 0x01 : S - 1 differ. -/
theorem State.readByte_push_push_first (s : State) (v w : Byte) :
    ((s.push v).push w).readByte (stackCell s.S) = v := by
  rw [State.readByte_push_of_ne _ w (stackCell_ne_stackCell_sub_one s.S), State.readByte_push_self]

theorem State.readByte_push_push_second (s : State) (v w : Byte) :
    ((s.push v).push w).readByte (stackCell (s.S - 1)) = w := (s.push v).readByte_push_self w

/-- The second pull after two pushes returns the first byte. -/
theorem State.pulled_pullByte_push_push (s : State) (v w : Byte) : ((s.push v).push w).pulled.pullByte = v := by
  rw [State.pullByte, State.readByte_pulled, State.pulled_S, State.push_S, State.push_S, BitVec.sub_add_cancel,
    BitVec.sub_add_cancel, State.readByte_push_push_first]

theorem pushedOnce_push (s : State) (v : Byte) : PushedOnce v s (s.push v) := by
  refine ⟨fun a => ?_, ?_, rfl, rfl, rfl, rfl, rfl, rfl, rfl⟩
  · rw [cell_eq_stackCell, State.readByte_push]
  · rw [State.push_S, BitVec.toNat_sub, Nat.add_comm]
    rfl

/-! ## Many pushes, many pulls -/

/-- The push that comes last is a push onto the state after the others. -/
theorem pushAll_append (bs cs : List Byte) (s : State) : pushAll (bs ++ cs) s = pushAll cs (pushAll bs s) := by
  induction bs generalizing s with
  | nil => rfl
  | cons b bs ih => exact ih (s.push b)

theorem sub_one_sub_ofNat (x : Byte) (n : Nat) : x - 1 - BitVec.ofNat 8 n = x - BitVec.ofNat 8 (n + 1) := by
  rw [BitVec.ofNat_add]
  bv_omega

theorem pushAll_S (bs : List Byte) (s : State) : (pushAll bs s).S = s.S - BitVec.ofNat 8 bs.length := by
  induction bs generalizing s with
  | nil => exact (BitVec.sub_zero s.S).symm
  | cons b bs ih => rw [pushAll, ih, State.push_S, sub_one_sub_ofNat, List.length_cons]

/-- n pushes write the cells of S, S - 1, ..., S - (n - 1) and no other. -/
theorem readByte_pushAll_of_ne (bs : List Byte) {s : State} {a : Addr}
    (ha : ∀ k < bs.length, a ≠ stackCell (s.S - BitVec.ofNat 8 k)) : (pushAll bs s).readByte a = s.readByte a := by
  induction bs generalizing s with
  | nil => rfl
  | cons b bs ih =>
    have hfirst : a ≠ stackCell s.S := by simpa using ha 0 (Nat.succ_pos _)
    have hrest : ∀ k < bs.length, a ≠ stackCell ((s.push b).S - BitVec.ofNat 8 k) := fun k hk => by
      rw [State.push_S, sub_one_sub_ofNat]
      exact ha (k + 1) (Nat.succ_lt_succ hk)
    rw [pushAll, ih hrest, State.readByte_push_of_ne s b hfirst]

/-- The pull that comes last is a pull from the state after the others. -/
theorem pullAll_succ (n : Nat) (s : State) :
    pullAll (n + 1) s = ((pullAll n s).1 ++ [(pullAll n s).2.pullByte], (pullAll n s).2.pulled) := by
  induction n generalizing s with
  | zero => rfl
  | succ n ih => rw [pullAll, ih s.pulled]; rfl

theorem readByte_pullAll (n : Nat) (s : State) (a : Addr) : (pullAll n s).2.readByte a = s.readByte a := by
  induction n generalizing s with
  | zero => rfl
  | succ n ih => exact (ih s.pulled).trans (s.readByte_pulled a)

/-- By induction on the bytes: the first one pushed is pulled last, and it is still in its cell, because the at most
255 pushes after it reach other cells. -/
theorem pullAll_pushAll (bs : List Byte) (s : State) (hlen : bs.length ≤ 256) :
    (pullAll bs.length (pushAll bs s)).1 = bs.reverse ∧ (pullAll bs.length (pushAll bs s)).2.S = s.S := by
  induction bs generalizing s with
  | nil => exact ⟨rfl, rfl⟩
  | cons b bs ih =>
    rw [List.length_cons] at hlen ⊢
    obtain ⟨hbytes, hS⟩ := ih (s.push b) (by omega)
    have hS' : (pullAll bs.length (pushAll bs (s.push b))).2.S + 1 = s.S := by
      rw [hS, State.push_S, BitVec.sub_add_cancel]
    have hfresh : ∀ k < bs.length, stackCell s.S ≠ stackCell ((s.push b).S - BitVec.ofNat 8 k) := fun k hk => by
      rw [State.push_S, Ne, stackCell_inj]
      bv_omega
    have hpull : (pullAll bs.length (pushAll bs (s.push b))).2.pullByte = b := by
      rw [State.pullByte, hS', readByte_pullAll, readByte_pushAll_of_ne bs hfresh, State.readByte_push_self]
    rw [pushAll, pullAll_succ, hbytes, hpull, List.reverse_cons]
    exact ⟨rfl, hS'⟩

/-- Settles O20: pulls undo pushes, a push's cell lies in page 0x01, and 256 pushes bring S back to where it was. -/
theorem stackIsLastInFirstOutWithinItsPage : Obligations.StackIsLastInFirstOutWithinItsPage := by
  refine ⟨pullAll_pushAll, fun bs s a ha => readByte_pushAll_of_ne bs fun k _ heq => ha ?_, fun bs b s hlen => ?_⟩
  · have hoff := (s.S - BitVec.ofNat 8 k).isLt
    rw [heq, stackCell_toNat]
    omega
  · have hS : (pushAll bs s).S = s.S := by
      rw [pushAll_S, hlen]
      exact BitVec.sub_zero s.S
    rw [pushAll_append, cell_eq_stackCell, ← hS]
    exact (pushAll bs s).readByte_push_self b

end Sys2Proof.Machine
end

section
/-! The families of instructions (42_load.md to 48_flag_set_halt.md): each operation is one of the named state
operations, and what it does is said once, for that operation. -/

namespace Sys2Proof.Machine

open Claims

theorem loadedA_load (s : State) (v : Byte) : LoadedA v s (s.load .A v) := ⟨_, znFrom_setZN v s.P, rfl⟩

theorem loadedX_load (s : State) (v : Byte) : LoadedX v s (s.load .X v) := ⟨_, znFrom_setZN v s.P, rfl⟩

theorem loadedY_load (s : State) (v : Byte) : LoadedY v s (s.load .Y v) := ⟨_, znFrom_setZN v s.P, rfl⟩

theorem shiftedAt_shrMem (s : State) (ea : Addr) : ShiftedAt ea s (s.shrMem ea) := by
  refine ⟨?_, fun a ha => ?_, shiftFlags_shrFlags _ s.P, rfl, rfl, rfl, rfl, rfl, rfl, rfl⟩
  · rw [State.readByte_shrMem, if_pos rfl, shrResult_toNat]
  · rw [State.readByte_shrMem, if_neg ha]

/-- Settles O13. -/
theorem loadsWriteTheirOperandAndZN : Obligations.LoadsWriteTheirOperandAndZN :=
  ⟨fun _ s => ⟨_, rfl, loadedA_load s _⟩, fun _ s => ⟨_, rfl, loadedA_load s _⟩, fun _ s => ⟨_, rfl, loadedA_load s _⟩,
    fun _ s => ⟨_, rfl, loadedA_load s _⟩, fun _ s => ⟨_, rfl, loadedA_load s _⟩, fun _ s => ⟨_, rfl, loadedA_load s _⟩,
    fun _ s => ⟨_, rfl, loadedA_load s _⟩, fun _ s => ⟨_, rfl, loadedA_load s _⟩,
    fun _ s => ⟨_, rfl, loadedX_load s _⟩, fun _ s => ⟨_, rfl, loadedX_load s _⟩, fun _ s => ⟨_, rfl, loadedX_load s _⟩,
    fun _ s => ⟨_, rfl, loadedX_load s _⟩, fun _ s => ⟨_, rfl, loadedX_load s _⟩,
    fun _ s => ⟨_, rfl, loadedY_load s _⟩, fun _ s => ⟨_, rfl, loadedY_load s _⟩, fun _ s => ⟨_, rfl, loadedY_load s _⟩,
    fun _ s => ⟨_, rfl, loadedY_load s _⟩, fun _ s => ⟨_, rfl, loadedY_load s _⟩⟩

/-- Settles O14: AND is a load of A & v into A. -/
theorem andCombinesTheOperandIntoA : Obligations.AndCombinesTheOperandIntoA :=
  ⟨fun _ s => ⟨_, rfl, loadedA_load s _⟩, fun _ s => ⟨_, rfl, loadedA_load s _⟩, fun _ s => ⟨_, rfl, loadedA_load s _⟩,
    fun _ s => ⟨_, rfl, loadedA_load s _⟩, fun _ s => ⟨_, rfl, loadedA_load s _⟩, fun _ s => ⟨_, rfl, loadedA_load s _⟩,
    fun _ s => ⟨_, rfl, loadedA_load s _⟩, fun _ s => ⟨_, rfl, loadedA_load s _⟩⟩

/-- Settles O15: ORA is a load of A | v into A. -/
theorem oraCombinesTheOperandIntoA : Obligations.OraCombinesTheOperandIntoA :=
  ⟨fun _ s => ⟨_, rfl, loadedA_load s _⟩, fun _ s => ⟨_, rfl, loadedA_load s _⟩, fun _ s => ⟨_, rfl, loadedA_load s _⟩,
    fun _ s => ⟨_, rfl, loadedA_load s _⟩, fun _ s => ⟨_, rfl, loadedA_load s _⟩, fun _ s => ⟨_, rfl, loadedA_load s _⟩,
    fun _ s => ⟨_, rfl, loadedA_load s _⟩, fun _ s => ⟨_, rfl, loadedA_load s _⟩⟩

/-- Settles O16. -/
theorem lsrShiftsRightInPlace : Obligations.LsrShiftsRightInPlace :=
  ⟨fun s => ⟨_, rfl, _, _, shrResult_toNat s.A, shiftFlags_shrFlags s.A s.P, rfl⟩,
    fun _ s => ⟨_, rfl, shiftedAt_shrMem s _⟩, fun _ s => ⟨_, rfl, shiftedAt_shrMem s _⟩,
    fun _ s => ⟨_, rfl, shiftedAt_shrMem s _⟩, fun _ s => ⟨_, rfl, shiftedAt_shrMem s _⟩⟩

/-- Settles O17. -/
theorem pushesStoreOneByteAndDecrementS : Obligations.PushesStoreOneByteAndDecrementS :=
  ⟨fun s => ⟨_, rfl, pushedOnce_push s s.A⟩, fun s => ⟨_, rfl, pushedOnce_push s s.P⟩⟩

theorem State.pullByte_eq_readByte_cell (s : State) : s.pullByte = s.readByte (cell (s.S + 1)) := by
  rw [State.pullByte, cell_eq_stackCell]

/-- Settles O18: the byte pulled is the one in the cell of the incremented S. -/
theorem pullsReadTheCellAfterIncrement : Obligations.PullsReadTheCellAfterIncrement := by
  refine ⟨fun s => ⟨_, rfl, ?_⟩, fun s => ?_⟩
  · rw [← State.pullByte_eq_readByte_cell]
    exact loadedA_load s.pulled _
  · rw [← State.pullByte_eq_readByte_cell]
    rfl

/-- Settles O19: a pull after a push returns the byte pushed, and S - 1 + 1 is S. -/
theorem pushThenPullRestores : Obligations.PushThenPullRestores := by
  intro s q
  have hS : s.S - 1 + 1 = s.S := BitVec.sub_add_cancel s.S 1
  have hA : State.pullByte { s.push s.A with pc := q } = s.A := s.pullByte_push s.A
  have hP : State.pullByte { s.push s.P with pc := q } = s.P := s.pullByte_push s.P
  refine ⟨⟨_, _, rfl, rfl, hA, rfl, rfl, hS, ?_⟩, ⟨_, _, rfl, rfl, rfl, rfl, rfl, hS, hP⟩⟩
  rw [State.load_P, hA]
  exact znFrom_setZN s.A s.P

/-- Settles O21. -/
theorem jumpAbsoluteGoesToItsOperand : Obligations.JumpAbsoluteGoesToItsOperand :=
  fun _ _ => rfl

/-- Settles O22: the pointer's high address is the number the statement names. -/
theorem jumpIndirectStaysInThePointersPage : Obligations.JumpIndirectStaysInThePointersPage := by
  intro ptr high s hhigh
  obtain rfl : high = pointerHighAddr ptr := BitVec.eq_of_toNat_eq (hhigh.trans (pointerHighAddr_toNat ptr).symm)
  exact ⟨targetInd ptr s, joinBytes_toNat _ _, rfl⟩

theorem exec_jsr (addr16 : Addr) (s : State) :
    exec (.jsr addr16) s =
      .next { (s.push (highByte (s.pc - 1))).push (lowByte (s.pc - 1)) with pc := addr16 } := rfl

theorem exec_rts (s : State) :
    exec .rts s = .next { s.pulled.pulled with pc := joinBytes s.pulled.pullByte s.pullByte + 1 } := rfl

/-- Settles O23: JSR is two pushes, of the high and of the low byte of pc - 1. -/
theorem jsrPushesItsLastByteAddressAndJumps : Obligations.JsrPushesItsLastByteAddressAndJumps := by
  intro addr16 s
  have hpc : (s.pc - 1).toNat = (s.pc.toNat + 65535) % 65536 := by
    rw [BitVec.toNat_sub, Nat.add_comm]
    rfl
  simp only [cell_eq_stackCell, ← hpc, ← highByte_toNat, ← lowByte_toNat]
  have hread (a : Addr) := State.readByte_of_mem_eq
    (s := (s.push (highByte (s.pc - 1))).push (lowByte (s.pc - 1)))
    (t := { (s.push (highByte (s.pc - 1))).push (lowByte (s.pc - 1)) with pc := addr16 }) rfl a
  refine ⟨_, exec_jsr addr16 s, ?_, ?_, fun a hfirst hsecond => ?_, ?_, rfl, ?_⟩
  · rw [hread, State.readByte_push_push_first]
  · rw [hread, State.readByte_push_push_second]
  · rw [hread, State.readByte_push_of_ne _ _ hsecond, s.readByte_push_of_ne _ hfirst]
  · exact sub_one_sub_ofNat s.S 1
  · simp

/-- Settles O24: RTS is two pulls, of the low and of the high byte. -/
theorem rtsReturnsToThePulledWordPlusOne : Obligations.RtsReturnsToThePulledWordPlusOne := by
  intro s
  have htwo : s.S + 1 + 1 = s.S + 2 := BitVec.add_assoc s.S 1 1
  refine ⟨joinBytes s.pulled.pullByte s.pullByte + 1, ?_, ?_⟩
  · rw [BitVec.toNat_add, joinBytes_toNat, State.pullByte_eq_readByte_cell, State.pullByte_eq_readByte_cell,
      State.readByte_pulled, State.pulled_S, htwo]
    rfl
  · rw [← htwo]
    rfl

/-- Settles O25: the two pulls return the two bytes of pc - 1 that were pushed. -/
theorem callThenReturnComesBackAfterTheCall : Obligations.CallThenReturnComesBackAfterTheCall := by
  intro addr16 q s
  have hlow := (s.push (highByte (s.pc - 1))).pullByte_push (lowByte (s.pc - 1))
  have hhigh := s.pulled_pullByte_push_push (highByte (s.pc - 1)) (lowByte (s.pc - 1))
  refine ⟨_, _, exec_jsr addr16 s, exec_rts _, ?_, ?_, by simp, by simp, by simp, by simp⟩
  · refine (congrArg₂ (joinBytes · · + 1) hhigh hlow).trans ?_
    rw [joinBytes_high_low, BitVec.sub_add_cancel]
  · calc s.S - 1 - 1 + 1 + 1 = s.S := by rw [BitVec.sub_add_cancel, BitVec.sub_add_cancel]

/-- Settles O26: every transfer but TXS is a load. -/
theorem transfersCopyTheirSource : Obligations.TransfersCopyTheirSource :=
  ⟨fun s => ⟨_, rfl, loadedX_load s s.A⟩, fun s => ⟨_, rfl, loadedY_load s s.A⟩, fun s => ⟨_, rfl, loadedA_load s s.X⟩,
    fun s => ⟨_, rfl, loadedA_load s s.Y⟩, fun s => ⟨_, rfl, loadedX_load s s.S⟩, fun _ => rfl⟩

/-- Settles O27. -/
theorem flagSetsSetOneBit : Obligations.FlagSetsSetOneBit :=
  ⟨fun s => ⟨_, bitSet_setFlag .C s.P, rfl⟩, fun s => ⟨_, bitSet_setFlag .I s.P, rfl⟩,
    fun s => ⟨_, bitSet_setFlag .D s.P, rfl⟩⟩

/-- Settles O28. -/
theorem nopHaltsAndChangesNothingElse : Obligations.NopHaltsAndChangesNothingElse :=
  fun _ => rfl

end Sys2Proof.Machine
end

section
/-! Noninterference of the flags (10_state.md, section 5): every fetch and every operation commutes with writing
P, but for PHP, which stores P. -/

namespace Sys2Proof.Machine

open Claims

/-- A fetch's result with its state changed. -/
def Fetched.mapState {α : Type} (f : State → State) : Fetched α → Fetched α
  | .got v s => .got v (f s)
  | .raised s => .raised (f s)

theorem State.fetchByte_setP (s : State) (p : Byte) :
    (s.setP p).fetchByte = s.fetchByte.mapState (·.setP p) := by
  rw [State.fetchByte, State.fetchByte, State.setP_pc]
  split <;> rfl

theorem State.fetchWord_setP (s : State) (p : Byte) :
    (s.setP p).fetchWord = s.fetchWord.mapState (·.setP p) := by
  rw [State.fetchWord, State.fetchWord, State.fetchByte_setP]
  cases s.fetchByte with
  | raised t => rfl
  | got lo t =>
    simp only [Fetched.mapState, State.fetchByte_setP]
    cases t.fetchByte <;> rfl

theorem State.fetchInstr_setP (s : State) (p : Byte) :
    (s.setP p).fetchInstr = s.fetchInstr.mapState (·.setP p) := by
  rw [State.fetchInstr, State.fetchInstr, State.fetchByte_setP]
  cases s.fetchByte with
  | raised t => rfl
  | got op t =>
    simp only [Fetched.mapState]
    cases opcodeEntry op with
    | none => rfl
    | some e =>
      cases e with
      | implied i => rfl
      | byteOperand make =>
        simp only [State.fetchByte_setP]
        cases t.fetchByte <;> rfl
      | wordOperand make =>
        simp only [State.fetchWord_setP]
        cases t.fetchWord <;> rfl

/-- Every operation but PHP's does with any other P what it does with s.P, to everything but P. -/
theorem exec_setP {i : Instr} (hphp : i ≠ .php) (s : State) (p : Byte) :
    ∃ t p', exec i s = .next t ∧ exec i (s.setP p) = .next (t.setP p') := by
  cases i with
  | php => exact absurd rfl hphp
  | _ => exact ⟨_, _, rfl, rfl⟩

theorem step_setP_of_raised {s u : State} (hrun : s.mode = .running) (hf : s.fetchInstr = .raised u) (p : Byte) :
    step (s.setP p) = .next (u.setP p) :=
  step_of_fetch_raised hrun (by rw [State.fetchInstr_setP, hf, Fetched.mapState])

theorem step_setP_of_got {s u : State} {i : Instr} (hrun : s.mode = .running) (hf : s.fetchInstr = .got i u)
    (p : Byte) : step (s.setP p) = exec i (u.setP p) :=
  step_of_fetch_got hrun (by rw [State.fetchInstr_setP, hf, Fetched.mapState])

theorem State.of_fetchInstr_got {s u : State} {i : Instr} (hf : s.fetchInstr = .got i u) :
    s.readByte s.pc = opcodeOf i ∧ u = s.advance i.length := by
  have hc := s.fetchInstr_cases
  rw [hf] at hc
  cases hc with
  | got _ _ henc => exact ⟨readByte_pc_of_encode henc, rfl⟩

theorem eq_php_of_opcodeOf {i : Instr} (h : opcodeOf i = 0x08#8) : i = .php := by
  cases i with
  | php => rfl
  | _ => simp [opcodeOf] at h

/-- Settles O10: the fetch does the same with any P, and so does every operation but PHP's, which stores P in one
cell. -/
theorem flagsSteerNothing : Obligations.FlagsSteerNothing := by
  intro s t p hrun h
  cases hf : s.fetchInstr with
  | raised u =>
    cases (step_of_fetch_raised hrun hf).symm.trans h
    have hstep := step_setP_of_raised hrun hf p
    exact ⟨fun _ => ⟨p, hstep⟩, fun _ =>
      ⟨t.setP p, hstep, rfl, rfl, rfl, rfl, rfl, rfl, rfl, fun a _ => t.readByte_setP p a⟩⟩
  | got i u =>
    have hexec := (step_of_fetch_got hrun hf).symm.trans h
    have hstep := step_setP_of_got hrun hf p
    obtain ⟨hop, rfl⟩ := State.of_fetchInstr_got hf
    refine ⟨fun hne => ?_, fun hphp => ?_⟩
    · have hi : i ≠ .php := by rintro rfl; exact hne hop
      obtain ⟨t', p', ht', hp'⟩ := exec_setP hi (s.advance i.length) p
      cases hexec.symm.trans ht'
      exact ⟨p', hstep.trans hp'⟩
    · obtain rfl := eq_php_of_opcodeOf (hop.symm.trans hphp)
      cases hexec
      refine ⟨_, hstep, rfl, rfl, rfl, rfl, rfl, rfl, rfl, fun a ha => ?_⟩
      rw [cell_eq_stackCell] at ha
      exact (State.readByte_push_of_ne ((s.advance 1).setP p) p ha).trans
        (State.readByte_push_of_ne (s.advance 1) s.P ha).symm

end Sys2Proof.Machine
end
